-- ==== Sys2Proof/Word.lean ====
section
/-! DEFINITION. The word types of the block and their plainest arithmetic (spec 00_scope.md R9, R10, R11).
All register and memory values are unsigned; bit 0 of a word is its least significant bit. -/

namespace Sys2Proof

/-- One byte of CHUNK, of a message, or of a command operand. -/
abbrev Byte := BitVec 8

/-- One magnitude sample: an entry of MAG, AUX or MAGLUT (R23, R24, R21). -/
abbrev Sample := BitVec 16

/-- A command word of the host port (R91) or a response word (R94). -/
abbrev PortWord := BitVec 64

/-- The operand field `cmd[55:0]` (R91), and the value field of a response (R94). -/
abbrev Word56 := BitVec 56

/-- A checksum, a syndrome, an ICAO address, or an entry of CRCTAB. -/
abbrev Word24 := BitVec 24

/-- A message of 14 bytes, `MSG[0]` in the most significant place, so that message bit position 0 is the
most significant bit of the whole (R10, R26). -/
abbrev Msg := BitVec 112

/-- The absolute difference `|a - b|` of two naturals (R11). -/
def absDiff (a b : Nat) : Nat := (a - b) + (b - a)

end Sys2Proof
end

