-- ==== Sys2Proof/Config.lean ====
section
/-! DEFINITION. The parameters of spec/00_scope.md R8, each defined once (93_implementation_defined.md U15). The literals
of the source are constants. The parameters that R8 and 92_eei_decisions.md leave open are the fields of `Parameters`:
every meaning that depends on one takes them as its last argument, with the stated defaults, `Config.defaults` (log
entry 1). The block has no undefined result (70_reset_and_hazards.md R333), so no free value stands here. Log entry 2:
CRCTAB and the comparisons from general knowledge. -/

namespace Sys2Proof.Config

/-- `PREAMBLE_SAMPLES`: magnitude samples from a candidate start to its data region (R8). -/
def preambleSamples : Nat := 16

/-- `LONG_BITS` (R8). -/
def longBits : Nat := 112

/-- `SHORT_BITS` (R8). -/
def shortBits : Nat := 56

/-- `PREAMBLE_US` (R8): eight microseconds of preamble, at two samples per microsecond. -/
def preambleUs : Nat := 8

/-- `SAMPLES_PER_US` (R8). -/
def samplesPerUs : Nat := 2

/-- `FULL_LEN`: samples of a preamble and a long frame (R8). -/
def fullLen : Nat := 240

/-- `LUT_DIM`: entries of MAGLUT per axis, deviations 0..128 (R8, 90_conflicts.md C1). -/
def lutDim : Nat := 129

/-- `LUT_SCALE` (R8, R120). -/
def lutScale : Nat := 360

/-- `IQ_CENTER` (R8, R123). -/
def iqCenter : Nat := 127

/-- `MARGIN`: the slicer's repeat threshold (R8, R162). -/
def margin : Nat := 256

/-- `QUAL_MIN` (R8, R168). -/
def qualMin : Nat := 2550

/-- `TTL_SECONDS` (R8). -/
def ttlSeconds : Nat := 60

/-- `FIX_DF_SET`: formats given bit-flip correction and cache insertion (R8, R192). -/
def fixDfSet : List (BitVec 5) := [11, 17]

/-- `AP_DF_SET`: formats given address unmask (R8, R192). -/
def apDfSet : List (BitVec 5) := [0, 4, 5, 16, 20, 21, 24]

/-- Entries of AUX (R24). -/
def auxCap : Nat := 224

/-- Addresses of CACHE (R37). -/
def cacheCap : Nat := 16777216

/-- CRCTAB, entries 0..55 (R182). -/
def crctabHigh : List Word24 :=
  [0x3935EA, 0x1C9AF5, 0xF1B77E, 0x78DBBF, 0xC397DB, 0x9E31E9, 0xB0E2F0, 0x587178,
   0x2C38BC, 0x161C5E, 0x0B0E2F, 0xFA7D13, 0x82C48D, 0xBE9842, 0x5F4C21, 0xD05C14,
   0x682E0A, 0x341705, 0xE5F186, 0x72F8C3, 0xC68665, 0x9CB936, 0x4E5C9B, 0xD8D449,
   0x939020, 0x49C810, 0x24E408, 0x127204, 0x093902, 0x049C81, 0xFDB444, 0x7EDA22,
   0x3F6D11, 0xE04C8C, 0x702646, 0x381323, 0xE3F395, 0x8E03CE, 0x4701E7, 0xDC7AF7,
   0x91C77F, 0xB719BB, 0xA476D9, 0xADC168, 0x56E0B4, 0x2B705A, 0x15B82D, 0xF52612,
   0x7A9309, 0xC2B380, 0x6159C0, 0x30ACE0, 0x185670, 0x0C2B38, 0x06159C, 0x030ACE]

/-- CRCTAB, entries 56..111 (R182): the entries a short message uses (R181). -/
def crctabLow : List Word24 :=
  [0x018567, 0xFF38B7, 0x80665F, 0xBFC92B, 0xA01E91, 0xAFF54C, 0x57FAA6, 0x2BFD53,
   0xEA04AD, 0x8AF852, 0x457C29, 0xDD4410, 0x6EA208, 0x375104, 0x1BA882, 0x0DD441,
   0xF91024, 0x7C8812, 0x3E4409, 0xE0D800, 0x706C00, 0x383600, 0x1C1B00, 0x0E0D80,
   0x0706C0, 0x038360, 0x01C1B0, 0x00E0D8, 0x00706C, 0x003836, 0x001C1B, 0xFFF409]
  ++ List.replicate 24 0

/-- CRCTAB: 112 constants of 24 bits (R21, R181, R182). -/
def crctab : List Word24 := crctabHigh ++ crctabLow

end Sys2Proof.Config

namespace Sys2Proof

/-- A count of ticks: TS, a cache entry's `seen`, a record's `ts` (R36, R37, R39). Every timestamp comes from the 56 bits
of a SETTS operand (R259), so 56 bits hold one of any width `W_TS` (log entry 1). -/
abbrev Ticks := BitVec 56

/-- The parameters that a model takes as arguments (R8; 92_eei_decisions.md D4, D21, D22, D24), with R8's defaults. -/
structure Parameters where
  /-- `CHUNK_CAP`: bytes of CHUNK. -/
  chunkCap : Nat := 262144
  /-- `OUTQ_CAP`: records of OUTQ. -/
  outqCap : Nat := 4096
  /-- `W_TS`: the width of a timestamp in bits (R36). -/
  wTs : Nat := 56
  /-- `TICKS_PER_SECOND`. -/
  ticksPerSecond : Nat := 1000000
  /-- `VERSION`. -/
  version : Nat := 7
  /-- `LONG_DF_SET`: formats sliced as 112 bits (R165; the source's set, 90_conflicts.md C8). -/
  longDfSet : List (BitVec 5) := [0, 4, 5, 16, 17, 20, 21, 24]
  /-- `CRCTAB` (R182). -/
  crctab : List Word24 := Config.crctab
  /-- `QDIV(bits)`: the quality divisor (R168). -/
  qdiv : Nat → Nat := fun bits => bits

/-- `MAG_CAP = CHUNK_CAP / 2` (R8). -/
def Parameters.magCap (cfg : Parameters) : Nat := cfg.chunkCap / 2

/-- `TTL_TICKS = TTL_SECONDS * TICKS_PER_SECOND` (R8). -/
def Parameters.ttlTicks (cfg : Parameters) : Nat := Config.ttlSeconds * cfg.ticksPerSecond

/-- A SETTS operand as a timestamp of `W_TS` bits: all of it at the default (R259). -/
def Parameters.tick (cfg : Parameters) (t : BitVec 56) : Ticks := BitVec.ofNat 56 (t.toNat % 2 ^ cfg.wTs)

/-- The constraints that R8 puts on the decided parameters. -/
abbrev Parameters.legal (cfg : Parameters) : Prop :=
  cfg.chunkCap % 2 = 0 ∧ 482 ≤ cfg.chunkCap ∧ cfg.chunkCap ≤ 2 ^ 24 - 2 ∧ 1 ≤ cfg.outqCap ∧
    1 ≤ cfg.ticksPerSecond ∧ cfg.ttlTicks < 2 ^ cfg.wTs

/-- Every parameter at the default that R8 states: the block that `exec` and `step` run. -/
def Config.defaults : Parameters := {}

end Sys2Proof
end

