-- ==== Sys2Proof/Syntax.lean ====
section
/-! DEFINITION. The host commands: one constructor per row of spec/opcode_table.json (30_encoding.md R97), each
with the operand fields of its format (R92) at their exact widths, in the order of R100; and the formats. -/

namespace Sys2Proof

/-- The operand formats of R92. -/
inductive Format where
  | n | k8 | b8 | h16 | iq | a24 | jb | t56 | m56
  deriving DecidableEq, Repr

/-- The 37 commands of R97. An operand is a field of the command word, taken as an unsigned integer (R93). -/
inductive Instr where
  | nop
  | sreset
  | rdreg (k : BitVec 8)
  | setptr (a : BitVec 24)
  | wrb (b : BitVec 8)
  | setlen (n : BitVec 24)
  | wrm (h : BitVec 16)
  | setmlen (n : BitVec 24)
  | rdmag
  | setts (t : BitVec 56)
  | ldm0 (m : BitVec 56)
  | ldm1 (m : BitVec 56)
  | rdm0
  | rdm1
  | rdbit (k : BitVec 8)
  | pop
  | rdo0
  | rdo1
  | rdots
  | rdb
  | lutrd (i q : BitVec 8)
  | magvec
  | prechk (j : BitVec 24)
  | phdet (j : BitVec 24)
  | phcor (j : BitVec 24)
  | slice (j : BitVec 24)
  | qual (j : BitVec 24) (bits : BitVec 8)
  | crc (bits : BitVec 8)
  | fix1 (bits : BitVec 8)
  | fix2 (bits : BitVec 8)
  | apchk (bits : BitVec 8)
  | validate
  | crctab (k : BitVec 8)
  | ccont (addr : BitVec 24)
  | cins (addr : BitVec 24)
  | demod
  | scan
  deriving DecidableEq, Repr

end Sys2Proof
end

