-- ==== Sys2Proof/WellFormed.lean ====
section
/-! DEFINITION. Which commands are well formed: those whose operand VALUES some state accepts (20_memory.md R70,
30_encoding.md R93). The widths are in the types of Syntax.lean, so every term has an encoding; these checks are
not part of decoding (R96): an ill-formed command decodes, and its own rule answers E_RANGE or E_BITS.
Log entry 3. -/

namespace Sys2Proof

/-- The register numbers of R42: 0..12 and 16..21. -/
def regListed (k : BitVec 8) : Bool := k.toNat ≤ 12 || (16 ≤ k.toNat && k.toNat ≤ 21)

/-- The `bits` operand is the literal number 56 or 112 (R93). -/
def bitsListed (bits : BitVec 8) : Bool := bits.toNat == Config.shortBits || bits.toNat == Config.longBits

/-- The operand values that some state of a block with these parameters accepts (R70, R93). -/
def Instr.wellFormed (i : Instr) (cfg : Parameters := Config.defaults) : Bool :=
  match i with
  | .nop => true
  | .sreset => true
  | .rdreg k => regListed k
  | .setptr _ => true
  | .wrb _ => true
  | .setlen n => n.toNat ≤ cfg.chunkCap
  | .wrm _ => true
  | .setmlen n => n.toNat ≤ cfg.magCap
  | .rdmag => true
  | .setts _ => true
  | .ldm0 _ => true
  | .ldm1 _ => true
  | .rdm0 => true
  | .rdm1 => true
  | .rdbit k => k.toNat < Config.longBits
  | .pop => true
  | .rdo0 => true
  | .rdo1 => true
  | .rdots => true
  | .rdb => true
  | .lutrd i q => i.toNat < Config.lutDim && q.toNat < Config.lutDim
  | .magvec => true
  | .prechk j => j.toNat + 14 < cfg.magCap
  | .phdet j => j.toNat != 0 && j.toNat + 10 < cfg.magCap
  | .phcor j => j.toNat + (Config.fullLen - 2) < cfg.magCap
  | .slice j => j.toNat + (Config.fullLen - 1) < cfg.magCap
  | .qual j bits => bitsListed bits && j.toNat + 15 + 2 * bits.toNat < cfg.magCap
  | .crc bits => bitsListed bits
  | .fix1 bits => bitsListed bits
  | .fix2 bits => bitsListed bits
  | .apchk bits => bitsListed bits
  | .validate => true
  | .crctab k => k.toNat < Config.longBits
  | .ccont _ => true
  | .cins _ => true
  | .demod => true
  | .scan => true

end Sys2Proof
end

