-- ==== Sys2Proof/Decode.lean ====
section
/-! DEFINITION. Decoding, total on any 64-bit word (30_encoding.md R91 to R97), and the encoder beside it, written
from the same tables. A command word comes whole from the host port: it has no byte order (log entry 4). -/

namespace Sys2Proof

/-- Why a word is illegal (R95, R99). Both are answered E_ILLEGAL. -/
inductive DecodeError where
  /-- Step (1) of R95: the opcode is not one of the 37 of R97. -/
  | undefinedOpcode (op : BitVec 8)
  /-- Step (2) of R95: an operand bit that the format does not name is 1. -/
  | reservedOperandBits (op : BitVec 8)
  deriving DecidableEq, Repr

/-- `cmd[63:56]` (R91). -/
def opcodeOf (w : PortWord) : BitVec 8 := w.extractLsb' 56 8

/-- `cmd[55:0]` (R91). -/
def operandOf (w : PortWord) : Word56 := w.extractLsb' 0 56

/-- The field `w[hi:lo]` of an operand, given by its lowest bit and its width (R9). -/
def fieldOf (w : Word56) (lo width : Nat) : BitVec width := w.extractLsb' lo width

/-- The operand bits a format names (R92): all others are reserved and must be 0. -/
def namedBits : Format → Word56
  | .n => 0
  | .k8 => 0xFF
  | .b8 => 0xFF
  | .h16 => 0xFFFF
  | .iq => 0xFFFF
  | .a24 => 0xFFFFFF
  | .jb => 0xFFFFFFFF
  | .t56 => 0xFFFFFFFFFFFFFF
  | .m56 => 0xFFFFFFFFFFFFFF

/-- One row of R97: the opcode, the operand format, and the command its operand makes. -/
structure OpcodeRow where
  op : BitVec 8
  format : Format
  build : Word56 → Instr

/-- The rows of R97 that reach the buffers and registers, opcodes 0x00 to 0x13. -/
def hostRows : List OpcodeRow :=
  [⟨0x00, .n, fun _ => .nop⟩,
   ⟨0x01, .n, fun _ => .sreset⟩,
   ⟨0x02, .k8, fun x => .rdreg (fieldOf x 0 8)⟩,
   ⟨0x03, .a24, fun x => .setptr (fieldOf x 0 24)⟩,
   ⟨0x04, .b8, fun x => .wrb (fieldOf x 0 8)⟩,
   ⟨0x05, .a24, fun x => .setlen (fieldOf x 0 24)⟩,
   ⟨0x06, .h16, fun x => .wrm (fieldOf x 0 16)⟩,
   ⟨0x07, .a24, fun x => .setmlen (fieldOf x 0 24)⟩,
   ⟨0x08, .n, fun _ => .rdmag⟩,
   ⟨0x09, .t56, fun x => .setts (fieldOf x 0 56)⟩,
   ⟨0x0A, .m56, fun x => .ldm0 (fieldOf x 0 56)⟩,
   ⟨0x0B, .m56, fun x => .ldm1 (fieldOf x 0 56)⟩,
   ⟨0x0C, .n, fun _ => .rdm0⟩,
   ⟨0x0D, .n, fun _ => .rdm1⟩,
   ⟨0x0E, .k8, fun x => .rdbit (fieldOf x 0 8)⟩,
   ⟨0x0F, .n, fun _ => .pop⟩,
   ⟨0x10, .n, fun _ => .rdo0⟩,
   ⟨0x11, .n, fun _ => .rdo1⟩,
   ⟨0x12, .n, fun _ => .rdots⟩,
   ⟨0x13, .n, fun _ => .rdb⟩]

/-- The rows of R97 of the seven units and the sequencer, opcodes 0x20 to 0x71. -/
def unitRows : List OpcodeRow :=
  [⟨0x20, .iq, fun x => .lutrd (fieldOf x 8 8) (fieldOf x 0 8)⟩,
   ⟨0x21, .n, fun _ => .magvec⟩,
   ⟨0x30, .a24, fun x => .prechk (fieldOf x 0 24)⟩,
   ⟨0x31, .a24, fun x => .phdet (fieldOf x 0 24)⟩,
   ⟨0x32, .a24, fun x => .phcor (fieldOf x 0 24)⟩,
   ⟨0x40, .a24, fun x => .slice (fieldOf x 0 24)⟩,
   ⟨0x41, .jb, fun x => .qual (fieldOf x 0 24) (fieldOf x 24 8)⟩,
   ⟨0x50, .k8, fun x => .crc (fieldOf x 0 8)⟩,
   ⟨0x51, .k8, fun x => .fix1 (fieldOf x 0 8)⟩,
   ⟨0x52, .k8, fun x => .fix2 (fieldOf x 0 8)⟩,
   ⟨0x53, .k8, fun x => .apchk (fieldOf x 0 8)⟩,
   ⟨0x54, .n, fun _ => .validate⟩,
   ⟨0x55, .k8, fun x => .crctab (fieldOf x 0 8)⟩,
   ⟨0x60, .a24, fun x => .ccont (fieldOf x 0 24)⟩,
   ⟨0x61, .a24, fun x => .cins (fieldOf x 0 24)⟩,
   ⟨0x70, .n, fun _ => .demod⟩,
   ⟨0x71, .n, fun _ => .scan⟩]

/-- The 37 rows of R97. -/
def opcodeRows : List OpcodeRow := hostRows ++ unitRows

/-- Decoding in the order of R95: the opcode, then the reserved operand bits, then the command. -/
def decode (w : PortWord) : Except DecodeError Instr :=
  match opcodeRows.find? (fun r => r.op == opcodeOf w) with
  | none => .error (.undefinedOpcode (opcodeOf w))
  | some r =>
    if operandOf w &&& ~~~(namedBits r.format) = 0 then .ok (r.build (operandOf w))
    else .error (.reservedOperandBits (opcodeOf w))

/-- `cmd = {op, operand}` (R91). -/
def commandWord (op : BitVec 8) (operand : Word56) : PortWord := op ++ operand

/-- The operand of formats K8 and B8: one byte in `operand[7:0]` (R92). -/
def byteOperand (k : BitVec 8) : Word56 := (0 : BitVec 48) ++ k

/-- The operand of format H16 (R92). -/
def halfOperand (h : BitVec 16) : Word56 := (0 : BitVec 40) ++ h

/-- The operand of format IQ: `i = operand[15:8]`, `q = operand[7:0]` (R92). -/
def iqOperand (i q : BitVec 8) : Word56 := (0 : BitVec 40) ++ (i ++ q)

/-- The operand of format A24 (R92). -/
def addrOperand (a : BitVec 24) : Word56 := (0 : BitVec 32) ++ a

/-- The operand of format JB: `j = operand[23:0]`, `bits = operand[31:24]` (R92). -/
def jbOperand (j : BitVec 24) (bits : BitVec 8) : Word56 := (0 : BitVec 24) ++ (bits ++ j)

/-- The command word of a command (R91, R92, R97). -/
def encode : Instr → PortWord
  | .nop => commandWord 0x00 0
  | .sreset => commandWord 0x01 0
  | .rdreg k => commandWord 0x02 (byteOperand k)
  | .setptr a => commandWord 0x03 (addrOperand a)
  | .wrb b => commandWord 0x04 (byteOperand b)
  | .setlen n => commandWord 0x05 (addrOperand n)
  | .wrm h => commandWord 0x06 (halfOperand h)
  | .setmlen n => commandWord 0x07 (addrOperand n)
  | .rdmag => commandWord 0x08 0
  | .setts t => commandWord 0x09 t
  | .ldm0 m => commandWord 0x0A m
  | .ldm1 m => commandWord 0x0B m
  | .rdm0 => commandWord 0x0C 0
  | .rdm1 => commandWord 0x0D 0
  | .rdbit k => commandWord 0x0E (byteOperand k)
  | .pop => commandWord 0x0F 0
  | .rdo0 => commandWord 0x10 0
  | .rdo1 => commandWord 0x11 0
  | .rdots => commandWord 0x12 0
  | .rdb => commandWord 0x13 0
  | .lutrd i q => commandWord 0x20 (iqOperand i q)
  | .magvec => commandWord 0x21 0
  | .prechk j => commandWord 0x30 (addrOperand j)
  | .phdet j => commandWord 0x31 (addrOperand j)
  | .phcor j => commandWord 0x32 (addrOperand j)
  | .slice j => commandWord 0x40 (addrOperand j)
  | .qual j bits => commandWord 0x41 (jbOperand j bits)
  | .crc bits => commandWord 0x50 (byteOperand bits)
  | .fix1 bits => commandWord 0x51 (byteOperand bits)
  | .fix2 bits => commandWord 0x52 (byteOperand bits)
  | .apchk bits => commandWord 0x53 (byteOperand bits)
  | .validate => commandWord 0x54 0
  | .crctab k => commandWord 0x55 (byteOperand k)
  | .ccont addr => commandWord 0x60 (addrOperand addr)
  | .cins addr => commandWord 0x61 (addrOperand addr)
  | .demod => commandWord 0x70 0
  | .scan => commandWord 0x71 0

/-- What the decoder reads from an instruction of the opcode table whose bits are `w`, of which the table gives
`nbits`: every bit above them is 0. A command has one length, 64 bits (R91). -/
def decodeTableWord (nbits w : Nat) : Option Instr :=
  if nbits ≤ 64 then
    match decode (BitVec.ofNat 64 (w % 2 ^ nbits)) with
    | .ok i => some i
    | .error _ => none
  else none

end Sys2Proof
end

