-- ==== Sys2Proof/Machine/State.lean ====
section
/-! DEFINITION. The state of the block as plain data (10_state.md R20 to R46), the error codes (60_exceptions.md
R290), and the state after reset (R46, R320). MAGLUT and CRCTAB are constants, not state (R21, R20): they are
`Parameters.crctab` and `maglut` (Machine/Magnitude.lean). CACHE_COUNT and OUTQ_COUNT are functions of CACHE and
OUTQ (R38, R39): `cacheCount` and `outqCount` (Machine/Flags.lean). Log entries 4 to 9. -/

namespace Sys2Proof.Machine

/-- An index space of `w`-bit elements (R60), as (index, element) pairs in one canonical form (`Memory.wf`): indices
strictly rising, and no element 0. An unlisted element reads as 0, its reset value (R22, R23, R24). `Memory 8`
is `List Host.Cell`. -/
abbrev Memory (w : Nat) := List (Nat × BitVec w)

/-- CACHE (R37), as the (address, seen) pairs of the entries with `valid = 1`, addresses strictly rising. An unlisted
address has the entry `valid = 0, seen = 0`, which reset and eviction write (R37, R211). -/
abbrev Cache := List (Nat × Ticks)

/-- A BITS element: 0, 1 or 2 = ambiguous. The value 3 never occurs (R25). -/
inductive Symbol where
  | zero
  | one
  | ambiguous
  deriving DecidableEq, Repr

/-- MODE: the two-state machine of R32. -/
inductive ScanMode where
  | scanningNormal
  | retryWithPhaseCorrection
  deriving DecidableEq, Repr

/-- A decoded message as OUTQ and the OUT registers hold it (R39, R40). -/
structure OutRecord where
  /-- `bytes`, or OUT_MSG: 14 bytes, byte 0 most significant. -/
  bytes : Msg
  /-- `long`, or OUT_LONG. -/
  long : Bool
  /-- `df`, or OUT_DF. -/
  df : BitVec 5
  /-- `av`, or OUT_AV: the address is present. -/
  av : Bool
  /-- `addr`, or OUT_ADDR. -/
  addr : Word24
  /-- `ts`, or OUT_TS. -/
  ts : Ticks
  deriving DecidableEq, Repr

/-- The status codes of a response (R290); their numbers are `statusCode` (Machine/Ops.lean). -/
inductive Status where
  | ok
  | illegal
  | range
  | chunkLen
  | bits
  | empty
  | qFull
  | fatal
  deriving DecidableEq, Repr

/-- What the outside world does to the block, one step each (R90, R320, R321). The MODEL's own: the spec has the
command as an input of the step (R20), and a step of this model reads its input from State. Log entry 5. -/
inductive HostInput where
  /-- A command word at the command port (R90, R91). -/
  | command (w : PortWord)
  /-- The reset input is asserted and released while no command executes (R320). -/
  | reset
  /-- The reset input is asserted while the command `w` executes, then released: the command is abandoned (R321). -/
  | resetDuring (w : PortWord)
  deriving DecidableEq, Repr

/-- The complete state (R20), and two fields of the model's own for the command port. -/
structure State where
  /-- CHUNK, `CHUNK_CAP` bytes (R22). -/
  chunk : Memory 8
  /-- MAG, `MAG_CAP` samples (R23). -/
  mag : Memory 16
  /-- AUX, 224 samples (R24). -/
  aux : Memory 16
  /-- BITS, 112 symbols (R25). -/
  bits : Vector Symbol 112
  /-- MSG, 14 bytes (R26). -/
  msg : Msg
  /-- ERRORS (R27). -/
  errors : BitVec 6
  /-- DF0 (R28). -/
  df0 : BitVec 5
  /-- MSGBITS (R29). -/
  msgBits : BitVec 7
  /-- HIGH (R30). -/
  high : BitVec 16
  /-- J (R31). -/
  j : BitVec 24
  /-- MODE (R32). -/
  mode : ScanMode
  /-- PTR (R33). -/
  ptr : BitVec 24
  /-- CHUNKLEN (R34). -/
  chunkLen : BitVec 24
  /-- MAGLEN (R35). -/
  magLen : BitVec 24
  /-- TS (R36). -/
  ts : Ticks
  /-- CACHE (R37). -/
  cache : Cache
  /-- OUTQ, oldest record first (R39). -/
  outq : List OutRecord
  /-- OUT_MSG, OUT_LONG, OUT_DF, OUT_AV, OUT_ADDR, OUT_TS (R40). -/
  out : OutRecord
  /-- FATAL (R41). -/
  fatal : Bool
  /-- FATAL_CAUSE (R41). -/
  fatalCause : BitVec 8
  /-- MODEL's own (log entry 5): what the host does next, in order, first one first. -/
  inputs : List HostInput
  /-- MODEL's own (log entry 6): the response word of the last command that was answered since reset (R94); none
  when no command has been. -/
  rsp : Option PortWord
  deriving DecidableEq, Repr

/-- Why a step could stop. It has no constructor: no command sequence of this block has an undefined result (R333),
every index a command touches is checked and answered by a status code (R70, R292), and a fatal error is a next state
(R293). Log entry 9. -/
inductive Fault where
  deriving DecidableEq, Repr

/-- Why a step could be refused. -/
inductive Refusal where
  /-- Raised only by an arm of `exec` for a command without a meaning; no arm raises it. Safe: the machine stops. -/
  | notModelled (mnemonic : String)
  deriving DecidableEq, Repr

/-- The OUT registers after reset: all 0 (R40, R46). -/
def OutRecord.zero : OutRecord :=
  { bytes := 0, long := false, df := 0, av := false, addr := 0, ts := 0 }

/-- The state after reset (R46, R320): everything 0, the cache and the queue empty, no response given yet. -/
def State.reset : State :=
  { chunk := []
    mag := []
    aux := []
    bits := Vector.replicate 112 .zero
    msg := 0
    errors := 0
    df0 := 0
    msgBits := 0
    high := 0
    j := 0
    mode := .scanningNormal
    ptr := 0
    chunkLen := 0
    magLen := 0
    ts := 0
    cache := []
    outq := []
    out := OutRecord.zero
    fatal := false
    fatalCause := 0
    inputs := []
    rsp := none }

end Sys2Proof.Machine
end

