-- ==== Sys2Proof/Machine/Ops.lean ====
section
/-! DEFINITION. The named operations over the index spaces, the message register and the response, and raising an
error, which is this block's exception (20_memory.md, 30_encoding.md R94, 60_exceptions.md R292 to R297). -/

namespace Sys2Proof.Machine

/-- The outcome of one step. -/
abbrev Result := Host.Outcome State Fault Refusal

/-! ### Index spaces (R12, R60, R67, R71) -/

/-- The first pair listed under an index. -/
def lookupAt {α : Type} : List (Nat × α) → Nat → Option α
  | [], _ => none
  | (k, v) :: rest, a => if k = a then some v else lookupAt rest a

/-- Lists a value under an index, in place of the one listed there. -/
def insertAt {α : Type} : List (Nat × α) → Nat → α → List (Nat × α)
  | [], a, v => [(a, v)]
  | (k, w) :: rest, a, v =>
    if a < k then (a, v) :: (k, w) :: rest
    else if a = k then (a, v) :: rest
    else (k, w) :: insertAt rest a v

/-- Lists nothing under an index. -/
def eraseAt {α : Type} (m : List (Nat × α)) (a : Nat) : List (Nat × α) :=
  m.filter fun e => e.1 != a

/-- Addresses strictly rising: the canonical form of a list of pairs. -/
abbrev rising {α : Type} (m : List (Nat × α)) : Prop := m.Pairwise fun d e => d.1 < e.1

/-- The canonical form of a space of `cap` elements (R60): indices strictly rising and below `cap`, no element 0. -/
abbrev Memory.wf {w : Nat} (cap : Nat) (m : Memory w) : Prop :=
  rising m ∧ ∀ e ∈ m, e.1 < cap ∧ e.2 ≠ 0

/-- `SPACE[a]` (R12): one whole element (R71). -/
def Memory.read {w : Nat} (m : Memory w) (a : Nat) : BitVec w := (lookupAt m a).getD 0

/-- `SPACE[a] <- v` (R12). -/
def Memory.write {w : Nat} (m : Memory w) (a : Nat) (v : BitVec w) : Memory w :=
  if v = 0 then eraseAt m a else insertAt m a v

/-- `MemRead(SPACE, base, n)` (R12). -/
def Memory.readBlock {w : Nat} (m : Memory w) (base n : Nat) : List (BitVec w) :=
  (List.range n).map fun x => m.read (base + x)

/-- The pairs that list the values `vs` from the index `base` on. -/
def listFrom {w : Nat} : Nat → List (BitVec w) → Memory w
  | _, [] => []
  | base, v :: vs => if v = 0 then listFrom (base + 1) vs else (base, v) :: listFrom (base + 1) vs

/-- `MemWrite(SPACE, base, n, vs)` (R12), `n` the number of values. -/
def Memory.writeBlock {w : Nat} (m : Memory w) (base : Nat) (vs : List (BitVec w)) : Memory w :=
  m.filter (fun e => e.1 < base) ++ listFrom base vs ++ m.filter (fun e => base + vs.length ≤ e.1)

/-- A sample of MAG as the natural that the comparisons and sums of the units use (R11, R16). -/
def sampleAt (mag : Memory 16) (x : Nat) : Nat := (mag.read x).toNat

/-! ### Messages (R10, R64, R65) -/

/-- `M[n]`, byte `n` of the 14 bytes of a message, `n <= 13`. -/
def msgByte (M : Msg) (n : Nat) : Byte := M.extractLsb' (8 * (13 - n)) 8

/-- `msgbit(M, k)` (R10). -/
def msgBit (M : Msg) (k : Nat) : Bool := M.getMsbD k

/-- `flip(M, k)` (R10), `k <= 111`. -/
def flipBit (M : Msg) (k : Nat) : Msg := M ^^^ (1#112 <<< (111 - k))

/-- Three consecutive message bytes from byte `n`, big-endian (R65). -/
def bytes24 (M : Msg) (n : Nat) : Word24 := msgByte M n ++ msgByte M (n + 1) ++ msgByte M (n + 2)

/-- The message whose bytes are the list's, first byte first. -/
def msgOfBytes (l : List Byte) : Msg := l.foldl (fun M b => (M <<< 8) ||| b.setWidth 112) 0

/-- The "top 5 bits of byte 0" (R14, R28, R165). -/
def formatField (M : Msg) : BitVec 5 := ((msgByte M 0) >>> 3).setWidth 5

/-! ### Responses and errors -/

/-- The status codes (R290). -/
def statusCode : Status → BitVec 8
  | .ok => 0x00
  | .illegal => 0x01
  | .range => 0x02
  | .chunkLen => 0x03
  | .bits => 0x04
  | .empty => 0x05
  | .qFull => 0x06
  | .fatal => 0x07

/-- `rsp = {status, value}` (R94). -/
def responseWord (st : Status) (value : Word56) : PortWord := statusCode st ++ value

/-- The port gives a response (R90, R94). -/
def withResponse (st : Status) (value : Word56) (s : State) : State :=
  { s with rsp := some (responseWord st value) }

/-- `respond(v)` (R12): the command ends with status OK and value `v`. -/
def respond (value : Word56) (s : State) : Result := .next (withResponse .ok value s)

/-- `raise E_X` of a command error (R292): the response carries the code and value 0, nothing else changes. -/
def raise (st : Status) (s : State) : Result := .next (withResponse st 0 s)

/-- FATAL and FATAL_CAUSE as the fatal error sets them (R41, R293). -/
def setFatal (s : State) : State := { s with fatal := true, fatalCause := statusCode .chunkLen }

/-- `raise E_CHUNKLEN` (R124, R293): FATAL and FATAL_CAUSE are set, nothing else changes. -/
def raiseChunkLen (s : State) : Result := .next (withResponse .chunkLen 0 (setFatal s))

/-- The FATAL gate (R294 (2), R296): while FATAL is 1 the command answers E_FATAL and changes nothing. -/
def whenRunning (s : State) (body : Result) : Result := if s.fatal then raise .fatal s else body

/-- Every piece of the block's state at its reset value (R46, R251, R320); what the host does next stays. -/
def resetBlock (s : State) : State := { State.reset with inputs := s.inputs }

/-! ### What the host does next (R90, R320, R321) -/

/-- The state once the first of the host's inputs is taken. -/
def takeInput (rest : List HostInput) (s : State) : State := { s with inputs := rest }

/-- The answer to an illegal word (R95): E_ILLEGAL, no state change, whether or not FATAL is set. -/
def answerIllegal (s : State) : Result := raise .illegal s

/-- The reset input (R320, R321): the state after reset, and no response. -/
def resetInput (s : State) : Result := .next (resetBlock s)

/-- Puts a command word first among the host's inputs. -/
def offerCommand (w : PortWord) (s : State) : State := { s with inputs := .command w :: s.inputs }

end Sys2Proof.Machine
end

