-- ==== Sys2Proof/Machine/Operands.lean ====
section
/-! DEFINITION. Operand forms: the range checks of 20_memory.md R70, the `bits` operand (30_encoding.md R93), the
seven bytes of format M56 (R66, R92), and the value fields the commands answer with. -/

namespace Sys2Proof.Machine

/-! ### Operand checks. Each is made before any effect (R294 (3)). -/

/-- The `bits` operand is 56 or 112 (R93); otherwise E_BITS. -/
def bitsOk (bits : BitVec 8) : Bool := bits.toNat == Config.shortBits || bits.toNat == Config.longBits

/-- LUTRD: `i <= 128 and q <= 128` (R70). -/
def lutIndexOk (i q : BitVec 8) : Bool := i.toNat < Config.lutDim && q.toNat < Config.lutDim

/-- CRCTAB and RDBIT: `k <= 111` (R70). -/
def index112Ok (k : BitVec 8) : Bool := k.toNat < Config.longBits

/-- PRECHK: `j + 14 < MAGLEN` (R70, R143). -/
def prechkOk (j magLen : BitVec 24) : Bool := j.toNat + 14 < magLen.toNat

/-- PHDET: `j >= 1 and j + 10 < MAGLEN` (R70, R145). -/
def phdetOk (j magLen : BitVec 24) : Bool := 1 ≤ j.toNat && j.toNat + 10 < magLen.toNat

/-- PHCOR: `j + 238 < MAGLEN` (R70, R147). -/
def phcorOk (j magLen : BitVec 24) : Bool := j.toNat + (Config.fullLen - 2) < magLen.toNat

/-- SLICE: `j + 239 < MAGLEN` (R70, R167). -/
def sliceOk (j magLen : BitVec 24) : Bool := j.toNat + (Config.fullLen - 1) < magLen.toNat

/-- QUAL: `j + 15 + 2*bits < MAGLEN` (R70, R169). -/
def qualOk (j magLen : BitVec 24) (bits : Nat) : Bool :=
  j.toNat + (Config.preambleSamples - 1) + Config.samplesPerUs * bits < magLen.toNat

/-! ### Seven message bytes in a 56-bit field (R66) -/

/-- Byte `n` of the seven bytes of an M56 operand, `n <= 6`: `operand[55-8n : 48-8n]` (R66, R92). -/
def m56Byte (m : Word56) (n : Nat) : Byte := m.extractLsb' (48 - 8 * n) 8

/-- Message bytes `first .. first+6` as one 56-bit value, the first byte most significant (R66). -/
def sevenBytes (M : Msg) (first : Nat) : Word56 :=
  msgByte M first ++ msgByte M (first + 1) ++ msgByte M (first + 2) ++ msgByte M (first + 3) ++
    msgByte M (first + 4) ++ msgByte M (first + 5) ++ msgByte M (first + 6)

/-- The message with its bytes 0..6 loaded from an M56 operand (R260). -/
def loadFirstSeven (M : Msg) (m : Word56) : Msg :=
  msgOfBytes ((List.range 7).map (m56Byte m) ++ (List.range 7).map fun n => msgByte M (7 + n))

/-- The message with its bytes 7..13 loaded from an M56 operand (R261). -/
def loadLastSeven (M : Msg) (m : Word56) : Msg :=
  msgOfBytes ((List.range 7).map (msgByte M) ++ (List.range 7).map (m56Byte m))

/-! ### Response values -/

/-- One bit. -/
def bit (b : Bool) : BitVec 1 := BitVec.ofBool b

/-- PRECHK: `{high[15:0], 14'b0, shape, pass}` (R143). -/
def prechkValue (pass shape : Bool) (high : BitVec 16) : Word56 :=
  (0 : BitVec 24) ++ high ++ (0 : BitVec 14) ++ bit shape ++ bit pass

/-- SLICE: `{ERRORS[5:0], 2'b0, long, DF0[4:0]}` (R167). -/
def sliceValue (errors : BitVec 6) (long : Bool) (df0 : BitVec 5) : Word56 :=
  (0 : BitVec 42) ++ errors ++ (0 : BitVec 2) ++ bit long ++ df0

/-- QUAL: `{pass, q[15:0]}` (R169). -/
def qualValue (pass : Bool) (q : BitVec 16) : Word56 := (0 : BitVec 39) ++ bit pass ++ q

/-- CRC: `{received[23:0], computed[23:0]}` (R185). -/
def crcValue (received computed : Word24) : Word56 := (0 : BitVec 8) ++ received ++ computed

/-- FIX1: `{found, 8'b0, p[7:0]}` (R187). -/
def fix1Value (found : Bool) (p : BitVec 8) : Word56 := (0 : BitVec 39) ++ bit found ++ (0 : BitVec 8) ++ p

/-- FIX2: `{found, r[7:0], p[7:0]}` (R189). -/
def fix2Value (found : Bool) (p r : BitVec 8) : Word56 := (0 : BitVec 39) ++ bit found ++ r ++ p

/-- APCHK: `{present, cand[23:0]}` (R191). -/
def apchkValue (present : Bool) (cand : Word24) : Word56 := (0 : BitVec 31) ++ bit present ++ cand

/-- VALIDATE: `{long, DF0[4:0], path[2:0], valid}` (R194). -/
def validateValue (long : Bool) (df0 : BitVec 5) (path : BitVec 3) (valid : Bool) : Word56 :=
  (0 : BitVec 46) ++ bit long ++ df0 ++ path ++ bit valid

/-- POP: `{long, df[4:0], av, addr[23:0]}` (R265). -/
def popValue (r : OutRecord) : Word56 := (0 : BitVec 25) ++ bit r.long ++ r.df ++ bit r.av ++ r.addr

/-- SCAN and DEMOD: `{J[23:0], count[23:0]}` (R235, R236). -/
def scanValue (j count : BitVec 24) : Word56 := (0 : BitVec 8) ++ j ++ count

end Sys2Proof.Machine
end

