-- ==== Sys2Proof/Machine/BitSlicer.lean ====
section
/-! DEFINITION. The Bit Slicer and the Amplitude Quality Gate (42_bit_slicer.md): SLICE, QUAL. -/

namespace Sys2Proof.Machine

/-- `a_k = MAG[j + 16 + 2k]` and `b_k = MAG[j + 17 + 2k]` (R161). -/
def bitSamples (mag : Memory 16) (j k : Nat) : Nat × Nat :=
  (sampleAt mag (j + Config.preambleSamples + 2 * k), sampleAt mag (j + Config.preambleSamples + 1 + 2 * k))

/-- The classification of one bit that does not repeat the one before it (R162). -/
def classify (a b : Nat) : Symbol :=
  if a = b then .ambiguous else if a > b then .one else .zero

/-- The bit repeats the one before it: `k > 0 and delta < 256` (R162). -/
def repeats (k a b : Nat) : Bool := k > 0 && absDiff a b < Config.margin

/-- `BITS[k]`, `prev` being `BITS[k-1]` (R162). -/
def sliceSymbol (k : Nat) (prev : Symbol) (a b : Nat) : Symbol :=
  if repeats k a b then prev else classify a b

/-- The bit increments ERRORS: it is classified ambiguous, not repeated, within the first 56 bits (R162). -/
def countsError (k a b : Nat) : Bool := !(repeats k a b) && a == b && k < Config.shortBits

/-- The loop of `SLICEBITS` over the bits from `k` on, given their samples: the symbols, and the errors they add
to `errors` (R162). -/
def sliceFrom : Nat → Symbol → BitVec 6 → List (Nat × Nat) → List Symbol × BitVec 6
  | _, _, errors, [] => ([], errors)
  | k, prev, errors, (a, b) :: rest =>
    let symbol := sliceSymbol k prev a b
    let more := sliceFrom (k + 1) symbol (if countsError k a b then errors + 1 else errors) rest
    (symbol :: more.1, more.2)

/-- The 112 symbols and ERRORS that `SLICEBITS(j)` writes (R162). -/
def sliceBits (mag : Memory 16) (j : Nat) : List Symbol × BitVec 6 :=
  sliceFrom 0 .zero 0 ((List.range Config.longBits).map (bitSamples mag j))

/-- A symbol as the two-bit number it is (R25, R164). -/
def symbolNat : Symbol → Nat
  | .zero => 0
  | .one => 1
  | .ambiguous => 2

/-- `BITS[k]`, `k <= 111`. -/
def symbolAt (bits : Vector Symbol 112) (k : Nat) : Symbol := bits.toList.getD k .zero

/-- `MSG[n]` packed from `BITS[8n .. 8n+7]`: OR of each symbol shifted to its place, truncated to 8 bits (R164). -/
def packByte (bits : Vector Symbol 112) (n : Nat) : Byte :=
  BitVec.ofNat 8
    ((List.range 8).foldl (fun acc t => acc ||| symbolNat (symbolAt bits (8 * n + t)) <<< (7 - t)) 0)

/-- The 14 packed bytes (R164). -/
def packBits (bits : Vector Symbol 112) : Msg := msgOfBytes ((List.range 14).map (packByte bits))

/-- BITS as the slicer writes it whole (R25). -/
def symbolVector (l : List Symbol) : Vector Symbol 112 := Vector.ofFn fun k => l.getD k.val .zero

/-- `SLICEBITS(j)`, then BITS packed into MSG (R162, R164). -/
def writeSlice (j : Nat) (s : State) : State :=
  { s with
    bits := symbolVector (sliceBits s.mag j).1
    errors := (sliceBits s.mag j).2
    msg := packBits (symbolVector (sliceBits s.mag j).1) }

/-- `LEN(df)` (R165). -/
def lengthOf (df : BitVec 5) (cfg : Parameters := Config.defaults) : Nat :=
  if cfg.longDfSet.contains df then Config.longBits else Config.shortBits

/-- `DF0 <- MSG[0] >> 3; MSGBITS <- LEN(DF0)` (R165). -/
def latchLength (s : State) (cfg : Parameters := Config.defaults) : State :=
  { s with df0 := formatField s.msg, msgBits := BitVec.ofNat 7 (lengthOf (formatField s.msg) cfg) }

/-- `MSGBITS == 112`. -/
def isLong (s : State) : Bool := s.msgBits.toNat == Config.longBits

/-- The function `QUALITY(j, bits)` (R168). -/
def quality (mag : Memory 16) (j bits : Nat) (cfg : Parameters := Config.defaults) : Nat :=
  ((List.range bits).map fun k => absDiff (bitSamples mag j k).1 (bitSamples mag j k).2).sum / cfg.qdiv bits

/-- The gate passes (R168). -/
def qualityPasses (q : Nat) : Bool := q ≥ Config.qualMin

/-- SLICE j (R167). -/
def execSlice (j : BitVec 24) (s : State) (cfg : Parameters := Config.defaults) : Result :=
  whenRunning s <|
    if sliceOk j s.magLen then
      let t := latchLength (writeSlice j.toNat s) cfg
      respond (sliceValue t.errors (isLong t) t.df0) t
    else raise .range s

/-- QUAL j, bits (R169): E_BITS is checked before E_RANGE. -/
def execQual (j : BitVec 24) (bits : BitVec 8) (s : State) (cfg : Parameters := Config.defaults) : Result :=
  whenRunning s <|
    if !bitsOk bits then raise .bits s
    else if qualOk j s.magLen bits.toNat then
      let q := quality s.mag j.toNat bits.toNat cfg
      respond (qualValue (qualityPasses q) (BitVec.ofNat 16 q)) s
    else raise .range s

end Sys2Proof.Machine
end

