-- ==== Sys2Proof/Machine/Flags.lean ====
section
/-! DEFINITION. Flags and the register numbers: the STATUS word (10_state.md R43), the level outputs
(60_exceptions.md R300), the counts, and the words RDREG reads (R42). No command sets condition codes (R41). -/

namespace Sys2Proof.Machine

/-- OUTQ_COUNT (R39). -/
def outqCount (s : State) : Nat := s.outq.length

/-- CACHE_COUNT: the addresses with `valid = 1` (R38). -/
def cacheCount (s : State) : Nat := s.cache.length

/-- MSG_AVAIL, STATUS bit 1, and the level output `msg_avail`: `OUTQ_COUNT != 0` (R43, R300). -/
def msgAvail (s : State) : Bool := outqCount s != 0

/-- The level output `fatal`, the same as STATUS bit 0 (R300). -/
def fatalLevel (s : State) : Bool := s.fatal

/-- The STATUS word, register 0 (R43): FATAL, MSG_AVAIL, six zeros, FATAL_CAUSE, zeros. -/
def statusWord (s : State) : Word56 :=
  (0 : BitVec 40) ++ s.fatalCause ++ (0 : BitVec 6) ++ BitVec.ofBool (msgAvail s) ++ BitVec.ofBool s.fatal

/-- MODE as its one bit: 0 = ScanningNormal, 1 = RetryWithPhaseCorrection (R32). -/
def modeBit : ScanMode → BitVec 1
  | .scanningNormal => 0
  | .retryWithPhaseCorrection => 1

/-- A state register's word, numbers 0 to 12 of R42, zero-extended to 56 bits. -/
def stateRegister (s : State) (k : Nat) : Option Word56 :=
  match k with
  | 0 => some (statusWord s)
  | 1 => some (s.ptr.setWidth 56)
  | 2 => some (s.chunkLen.setWidth 56)
  | 3 => some (s.magLen.setWidth 56)
  | 4 => some s.ts
  | 5 => some (s.j.setWidth 56)
  | 6 => some ((modeBit s.mode).setWidth 56)
  | 7 => some (s.errors.setWidth 56)
  | 8 => some (s.df0.setWidth 56)
  | 9 => some (s.msgBits.setWidth 56)
  | 10 => some (s.high.setWidth 56)
  | 11 => some ((BitVec.ofNat 24 (outqCount s)).setWidth 56)
  | 12 => some ((BitVec.ofNat 25 (cacheCount s)).setWidth 56)
  | _ => none

/-- A parameter word, numbers 16 to 21 of R42. -/
def parameterRegister (k : Nat) (cfg : Parameters := Config.defaults) : Option Word56 :=
  match k with
  | 16 => some ((BitVec.ofNat 24 cfg.chunkCap).setWidth 56)
  | 17 => some ((BitVec.ofNat 24 cfg.magCap).setWidth 56)
  | 18 => some ((BitVec.ofNat 24 cfg.outqCap).setWidth 56)
  | 19 => some (BitVec.ofNat 56 cfg.ttlTicks)
  | 20 => some (BitVec.ofNat 56 cfg.ticksPerSecond)
  | 21 => some ((BitVec.ofNat 8 cfg.version).setWidth 56)
  | _ => none

/-- `REG[k]` of R42; none for a reserved number, 13 to 15 and 22 to 255 (R62). -/
def registerWord (s : State) (k : Nat) (cfg : Parameters := Config.defaults) : Option Word56 :=
  if k ≤ 12 then stateRegister s k else parameterRegister k cfg

end Sys2Proof.Machine
end

