-- ==== Sys2Proof/Machine/HostAccess.lean ====
section
/-! DEFINITION. Host access and system commands (46_host_access.md): NOP, SRESET, RDREG, SETPTR, WRB, SETLEN, WRM,
SETMLEN, RDMAG, SETTS, LDM0, LDM1, RDM0, RDM1, RDBIT, POP, RDO0, RDO1, RDOTS, RDB. NOP, SRESET, RDREG, POP, RDO0,
RDO1 and RDOTS run while FATAL is 1 (60_exceptions.md R296). -/

namespace Sys2Proof.Machine

/-- `PTR <- PTR + 1`. -/
def advancePtr (s : State) : State := { s with ptr := s.ptr + 1 }

/-- The six OUT registers loaded with a record that leaves OUTQ (R265). -/
def takeRecord (r : OutRecord) (rest : List OutRecord) (s : State) : State := { s with outq := rest, out := r }

/-- NOP (R250). -/
def execNop (s : State) : Result := respond 0 s

/-- SRESET (R251). -/
def execSreset (s : State) : Result := respond 0 (resetBlock s)

/-- RDREG k (R252). -/
def execRdreg (k : BitVec 8) (s : State) (cfg : Parameters := Config.defaults) : Result :=
  match registerWord s k.toNat cfg with
  | some v => respond v s
  | none => raise .range s

/-- SETPTR a (R253). -/
def execSetptr (a : BitVec 24) (s : State) : Result := whenRunning s <| respond 0 { s with ptr := a }

/-- WRB b (R254). -/
def execWrb (b : BitVec 8) (s : State) (cfg : Parameters := Config.defaults) : Result :=
  whenRunning s <|
    if s.ptr.toNat ≥ cfg.chunkCap then raise .range s
    else respond 0 (advancePtr { s with chunk := s.chunk.write s.ptr.toNat b })

/-- SETLEN n (R255). -/
def execSetlen (n : BitVec 24) (s : State) (cfg : Parameters := Config.defaults) : Result :=
  whenRunning s <|
    if n.toNat > cfg.chunkCap then raise .range s else respond 0 { s with chunkLen := n }

/-- SETTS t (R259). -/
def execSetts (t : BitVec 56) (s : State) (cfg : Parameters := Config.defaults) : Result :=
  whenRunning s <| respond 0 { s with ts := cfg.tick t }

/-- RDB (R269). -/
def execRdb (s : State) : Result :=
  whenRunning s <|
    if s.ptr.toNat ≥ s.chunkLen.toNat then raise .range s
    else respond ((s.chunk.read s.ptr.toNat).setWidth 56) (advancePtr s)

/-- WRM h (R256). -/
def execWrm (h : BitVec 16) (s : State) (cfg : Parameters := Config.defaults) : Result :=
  whenRunning s <|
    if s.ptr.toNat ≥ cfg.magCap then raise .range s
    else respond 0 (advancePtr { s with mag := s.mag.write s.ptr.toNat h })

/-- SETMLEN n (R257). -/
def execSetmlen (n : BitVec 24) (s : State) (cfg : Parameters := Config.defaults) : Result :=
  whenRunning s <|
    if n.toNat > cfg.magCap then raise .range s else respond 0 { s with magLen := n }

/-- RDMAG (R258). -/
def execRdmag (s : State) : Result :=
  whenRunning s <|
    if s.ptr.toNat ≥ s.magLen.toNat then raise .range s
    else respond ((s.mag.read s.ptr.toNat).setWidth 56) (advancePtr s)

/-- LDM0 m (R260). -/
def execLdm0 (m : BitVec 56) (s : State) : Result :=
  whenRunning s <| respond 0 { s with msg := loadFirstSeven s.msg m }

/-- LDM1 m (R261). -/
def execLdm1 (m : BitVec 56) (s : State) : Result :=
  whenRunning s <| respond 0 { s with msg := loadLastSeven s.msg m }

/-- RDM0 (R262). -/
def execRdm0 (s : State) : Result := whenRunning s <| respond (sevenBytes s.msg 0) s

/-- RDM1 (R263). -/
def execRdm1 (s : State) : Result := whenRunning s <| respond (sevenBytes s.msg 7) s

/-- RDBIT k (R264). -/
def execRdbit (k : BitVec 8) (s : State) : Result :=
  whenRunning s <|
    if index112Ok k then respond (BitVec.ofNat 56 (symbolNat (symbolAt s.bits k.toNat))) s
    else raise .range s

/-- POP (R265). -/
def execPop (s : State) : Result :=
  match s.outq with
  | [] => raise .empty s
  | r :: rest => respond (popValue r) (takeRecord r rest s)

/-- RDO0 (R266). -/
def execRdo0 (s : State) : Result := respond (sevenBytes s.out.bytes 0) s

/-- RDO1 (R267). -/
def execRdo1 (s : State) : Result := respond (sevenBytes s.out.bytes 7) s

/-- RDOTS (R268). -/
def execRdots (s : State) : Result := respond s.out.ts s

end Sys2Proof.Machine
end

