-- ==== Sys2Proof/Machine/IcaoCache.lean ====
section
/-! DEFINITION. The ICAO Address Cache (44_icao_cache.md): CCONT, CINS. -/

namespace Sys2Proof.Machine

/-- The age of an entry: `now - seen` when `now >= seen`, else 0 (R211, R213). Timestamps are naturals, no wrap. -/
def cacheAge (now seen : Ticks) : Nat := now.toNat - seen.toNat

/-- The answer of `CONTAINS(addr, now)` (R211): present, and not more than `TTL_TICKS` old. -/
def cacheHas (c : Cache) (addr : Word24) (now : Ticks) (cfg : Parameters := Config.defaults) : Bool :=
  match lookupAt c addr.toNat with
  | none => false
  | some seen => !(cacheAge now seen > cfg.ttlTicks)

/-- The cache after `CONTAINS(addr, now)` (R211): a stale entry of `addr` is evicted, nothing else changes. -/
def cacheAfterLookup (c : Cache) (addr : Word24) (now : Ticks) (cfg : Parameters := Config.defaults) : Cache :=
  match lookupAt c addr.toNat with
  | none => c
  | some seen => if cacheAge now seen > cfg.ttlTicks then eraseAt c addr.toNat else c

/-- `INSERT(addr, now)`: sets or overwrites the timestamp (R212). -/
def cacheInsert (c : Cache) (addr : Word24) (now : Ticks) : Cache := insertAt c addr.toNat now

/-- The cache of the state replaced. -/
def setCache (c : Cache) (s : State) : State := { s with cache := c }

/-- CCONT addr (R214). -/
def execCcont (addr : BitVec 24) (s : State) (cfg : Parameters := Config.defaults) : Result :=
  whenRunning s <|
    respond ((BitVec.ofBool (cacheHas s.cache addr s.ts cfg)).setWidth 56)
      (setCache (cacheAfterLookup s.cache addr s.ts cfg) s)

/-- CINS addr (R215). -/
def execCins (addr : BitVec 24) (s : State) : Result :=
  whenRunning s <| respond 0 (setCache (cacheInsert s.cache addr s.ts) s)

end Sys2Proof.Machine
end

