-- ==== Sys2Proof/Machine/Checksum.lean ====
section
/-! DEFINITION. The Mode S checksum, the bit-flip corrector, the address unmask and the validation flow
(43_checksum_corrector.md): CRC, FIX1, FIX2, APCHK, VALIDATE, CRCTAB. -/

namespace Sys2Proof.Machine

/-- `CRCTAB[k]`, `k <= 111` (R182). -/
def crctabEntry (k : Nat) (cfg : Parameters := Config.defaults) : Word24 := cfg.crctab.getD k 0

/-- The table offset of a message length (R184). -/
def tableOffset (bits : Nat) : Nat := if bits = Config.longBits then 0 else 56

/-- The exclusive-or of the entries whose message bit is set, the first entry belonging to bit `k`. -/
def xorEntries (M : Msg) : Nat → List Word24 → Word24
  | _, [] => 0
  | k, e :: rest => if msgBit M k then e ^^^ xorEntries M (k + 1) rest else xorEntries M (k + 1) rest

/-- `CHECKSUM(M, bits)` (R184): the entries `CRCTAB[k + offset]`, `0 <= k < bits`, of the set bits. -/
def checksum (M : Msg) (bits : Nat) (cfg : Parameters := Config.defaults) : Word24 :=
  xorEntries M 0 ((cfg.crctab.drop (tableOffset bits)).take bits)

/-- `RXCRC(M, bits)`: the last three bytes, big-endian (R65, R184). -/
def rxCrc (M : Msg) (bits : Nat) : Word24 := bytes24 M (bits / 8 - 3)

/-- `VALID(M, bits)` (R184). -/
def validMsg (M : Msg) (bits : Nat) (cfg : Parameters := Config.defaults) : Bool :=
  checksum M bits cfg == rxCrc M bits

/-- `FIXONE(bits)` (R187): the lowest bit position whose flip makes the message valid. -/
def fixOne (M : Msg) (bits : Nat) (cfg : Parameters := Config.defaults) : Option Nat :=
  (List.range bits).find? fun p => validMsg (flipBit M p) bits cfg

/-- The inner scan of `FIXTWO(bits)` (R188): the lowest `r`, from `p+1` on, that makes the message valid. -/
def fixTwoInner (M : Msg) (bits p : Nat) (cfg : Parameters := Config.defaults) : Option Nat :=
  (List.range' (p + 1) (bits - (p + 1))).find? fun r => validMsg (flipBit (flipBit M p) r) bits cfg

/-- `FIXTWO(bits)` (R188): the lexicographically smallest pair whose flips make the message valid. -/
def fixTwo (M : Msg) (bits : Nat) (cfg : Parameters := Config.defaults) : Option (Nat × Nat) :=
  (List.range bits).findSome? fun p => (fixTwoInner M bits p cfg).map fun r => (p, r)

/-- The candidate address of `UNMASK(bits)`: received exclusive-or computed (R190). -/
def unmaskAddress (M : Msg) (bits : Nat) (cfg : Parameters := Config.defaults) : Word24 :=
  rxCrc M bits ^^^ checksum M bits cfg

/-- The address of bytes 1 to 3, big-endian (R65, R193). -/
def literalAddress (M : Msg) : Word24 := bytes24 M 1

/-- DF0 is in `FIX_DF_SET` (R192). -/
def isFixFormat (df : BitVec 5) : Bool := Config.fixDfSet.contains df

/-- DF0 is in `AP_DF_SET` (R192). -/
def isApFormat (df : BitVec 5) : Bool := Config.apDfSet.contains df

/-- What `VALIDATEMSG` returns (R193): path 0 invalid, 1 direct, 2 single-bit, 3 two-bit, 4 address unmask. -/
structure Verdict where
  valid : Bool
  path : BitVec 3
  deriving DecidableEq, Repr

/-- The first part of `VALIDATEMSG` (R193): the direct comparison, and for DF 11 and 17 the bit-flip search. The
message after it, and the verdict so far. -/
def correctMessage (M : Msg) (df0 : BitVec 5) (bits : Nat) (cfg : Parameters := Config.defaults) :
    Msg × Verdict :=
  if validMsg M bits cfg then (M, { valid := true, path := 1 })
  else if isFixFormat df0 then
    match fixOne M bits cfg with
    | some p => (flipBit M p, { valid := true, path := 2 })
    | none =>
      match fixTwo M bits cfg with
      | some (p, r) => (flipBit (flipBit M p) r, { valid := true, path := 3 })
      | none => (M, { valid := false, path := 0 })
  else (M, { valid := false, path := 0 })

/-- The second part of `VALIDATEMSG` (R193): the address unmask of an AP format that is still invalid. The cache
after its lookup, and the verdict. -/
def unmaskVerdict (M : Msg) (df0 : BitVec 5) (bits : Nat) (c : Cache) (now : Ticks) (v : Verdict)
    (cfg : Parameters := Config.defaults) : Cache × Verdict :=
  if !v.valid && isApFormat df0 then
    (cacheAfterLookup c (unmaskAddress M bits cfg) now cfg,
      if cacheHas c (unmaskAddress M bits cfg) now cfg then { valid := true, path := 4 } else v)
  else (c, v)

/-- The last part of `VALIDATEMSG` (R193): the address of a valid DF 11 or 17 message is inserted. -/
def insertVerdict (M : Msg) (df0 : BitVec 5) (now : Ticks) (r : Cache × Verdict) : Cache :=
  if r.2.valid && isFixFormat df0 then cacheInsert r.1 (literalAddress M) now else r.1

/-- `VALIDATEMSG(now)` on MSG, DF0 and MSGBITS (R193): the state after it, and the verdict. -/
def validateMsg (now : Ticks) (s : State) (cfg : Parameters := Config.defaults) : State × Verdict :=
  let m := correctMessage s.msg s.df0 s.msgBits.toNat cfg
  let u := unmaskVerdict m.1 s.df0 s.msgBits.toNat s.cache now m.2 cfg
  ({ s with msg := m.1, cache := insertVerdict m.1 s.df0 now u }, u.2)

/-- CRCTAB k (R183). -/
def execCrctab (k : BitVec 8) (s : State) (cfg : Parameters := Config.defaults) : Result :=
  whenRunning s <|
    if index112Ok k then respond ((crctabEntry k.toNat cfg).setWidth 56) s else raise .range s

/-- CRC bits (R185). -/
def execCrc (bits : BitVec 8) (s : State) (cfg : Parameters := Config.defaults) : Result :=
  whenRunning s <|
    if bitsOk bits then respond (crcValue (rxCrc s.msg bits.toNat) (checksum s.msg bits.toNat cfg)) s
    else raise .bits s

/-- FIX1 bits (R187). -/
def execFix1 (bits : BitVec 8) (s : State) (cfg : Parameters := Config.defaults) : Result :=
  whenRunning s <|
    if bitsOk bits then
      match fixOne s.msg bits.toNat cfg with
      | some p => respond (fix1Value true (BitVec.ofNat 8 p)) { s with msg := flipBit s.msg p }
      | none => respond (fix1Value false 0) s
    else raise .bits s

/-- FIX2 bits (R189). -/
def execFix2 (bits : BitVec 8) (s : State) (cfg : Parameters := Config.defaults) : Result :=
  whenRunning s <|
    if bitsOk bits then
      match fixTwo s.msg bits.toNat cfg with
      | some (p, r) =>
        respond (fix2Value true (BitVec.ofNat 8 p) (BitVec.ofNat 8 r))
          { s with msg := flipBit (flipBit s.msg p) r }
      | none => respond (fix2Value false 0 0) s
    else raise .bits s

/-- APCHK bits (R191): `UNMASK` with `now = TS`, whatever the format. -/
def execApchk (bits : BitVec 8) (s : State) (cfg : Parameters := Config.defaults) : Result :=
  whenRunning s <|
    if bitsOk bits then
      let cand := unmaskAddress s.msg bits.toNat cfg
      respond (apchkValue (cacheHas s.cache cand s.ts cfg) cand)
        (setCache (cacheAfterLookup s.cache cand s.ts cfg) s)
    else raise .bits s

/-- VALIDATE (R194). -/
def execValidate (s : State) (cfg : Parameters := Config.defaults) : Result :=
  whenRunning s <|
    let t := latchLength s cfg
    let r := validateMsg t.ts t cfg
    respond (validateValue (isLong t) t.df0 r.2.path r.2.valid) r.1

end Sys2Proof.Machine
end

