-- ==== Sys2Proof/Machine/Magnitude.lean ====
section
/-! DEFINITION. The Magnitude Lookup Table and the Magnitude Vector Builder (40_magnitude.md): LUTRD, MAGVEC. -/

namespace Sys2Proof.Machine

/-- The bits of a square root from bit `n - 1` down, `r` being the part found so far. -/
def isqrtFrom : Nat → Nat → Nat → Nat
  | 0, _, r => r
  | n + 1, v, r =>
    if (r + 2 ^ n) * (r + 2 ^ n) ≤ v then isqrtFrom n v (r + 2 ^ n) else isqrtFrom n v r

/-- `isqrt(v)`: the largest natural `s` with `s*s <= v` (R11). -/
def isqrt (v : Nat) : Nat := isqrtFrom (v.log2 / 2 + 1) v 0

/-- `MAGLUT(i, q) = (isqrt(518400 * n) + 1) div 2` with `n = i*i + q*q`, where `518400 = (2*360)^2` (R120). The
table is reached only through the pair (R61). -/
def maglut (i q : Nat) : Sample :=
  BitVec.ofNat 16 ((isqrt ((2 * Config.lutScale) ^ 2 * (i * i + q * q)) + 1) / 2)

/-- `mag(I, Q)` of one sample pair (R123). -/
def pairMagnitude (I Q : Byte) : Sample :=
  maglut (absDiff I.toNat Config.iqCenter) (absDiff Q.toNat Config.iqCenter)

/-- The magnitudes of the chunk's sample pairs: for pair `k`, `I = CHUNK[2k]` and `Q = CHUNK[2k+1]` (R63, R124). -/
def chunkMagnitudes (chunk : Memory 8) (chunkLen : Nat) : List Sample :=
  (List.range (chunkLen / 2)).map fun k => pairMagnitude (chunk.read (2 * k)) (chunk.read (2 * k + 1))

/-- The chunk length that the builder rejects: zero or odd (R68, R124). -/
def chunkLenBad (chunkLen : BitVec 24) : Bool := chunkLen.toNat == 0 || chunkLen.toNat % 2 == 1

/-- `MAG[0 .. CHUNKLEN div 2 - 1]` and MAGLEN as the builder writes them (R124). -/
def buildVector (s : State) : State :=
  { s with
    mag := s.mag.writeBlock 0 (chunkMagnitudes s.chunk s.chunkLen.toNat)
    magLen := BitVec.ofNat 24 (s.chunkLen.toNat / 2) }

/-- LUTRD i, q (R122). -/
def execLutrd (i q : BitVec 8) (s : State) : Result :=
  whenRunning s <|
    if lutIndexOk i q then respond ((maglut i.toNat q.toNat).setWidth 56) s else raise .range s

/-- MAGVEC (R124). -/
def execMagvec (s : State) : Result :=
  whenRunning s <|
    if chunkLenBad s.chunkLen then raiseChunkLen s
    else respond ((buildVector s).magLen.setWidth 56) (buildVector s)

end Sys2Proof.Machine
end

