-- ==== Sys2Proof/Machine/PreamblePhase.lean ====
section
/-! DEFINITION. The Preamble Detector, the Phase Detector and the Phase Corrector (41_preamble_phase.md): PRECHK,
PHDET, PHCOR. In this file `m x` is `MAG[j + x]`. The comparisons are those the spec gives (log entry 2). -/

namespace Sys2Proof.Machine

/-- The ten comparisons of the shape test (R141). -/
def preambleShape (mag : Memory 16) (j : Nat) : Bool :=
  let m := fun x => sampleAt mag (j + x)
  m 0 > m 1 && m 1 < m 2 && m 2 > m 3 && m 3 < m 0
    && m 4 < m 0 && m 5 < m 0 && m 6 < m 0
    && m 7 > m 8 && m 8 < m 9 && m 9 > m 6

/-- `high = (m[0] + m[2] + m[7] + m[9]) div 6` (R141). -/
def preambleLevel (mag : Memory 16) (j : Nat) : Nat :=
  (sampleAt mag j + sampleAt mag (j + 2) + sampleAt mag (j + 7) + sampleAt mag (j + 9)) / 6

/-- No sample of 4, 5, 11 to 14 reaches `high` (R141). -/
def preambleQuiet (mag : Memory 16) (j high : Nat) : Bool :=
  let m := fun x => sampleAt mag (j + x)
  !(m 4 ≥ high || m 5 ≥ high) && !(m 11 ≥ high || m 12 ≥ high || m 13 ≥ high || m 14 ≥ high)

/-- What `PREAMBLE(j)` returns (R141). -/
structure PreambleVerdict where
  pass : Bool
  shape : Bool
  high : BitVec 16
  deriving DecidableEq, Repr

/-- The function `PREAMBLE(j)` (R141), less its write of HIGH. -/
def preamble (mag : Memory 16) (j : Nat) : PreambleVerdict :=
  if preambleShape mag j then
    { pass := preambleQuiet mag j (preambleLevel mag j)
      shape := true
      high := BitVec.ofNat 16 (preambleLevel mag j) }
  else { pass := false, shape := false, high := 0 }

/-- HIGH is written when the shape test passes, and not otherwise (R30, R141). -/
def latchHigh (v : PreambleVerdict) (s : State) : State :=
  if v.shape then { s with high := v.high } else s

/-- The function `PHASE(j)`, `j >= 1` (R144): the first true comparison decides. -/
def phase (mag : Memory 16) (j : Nat) : Int :=
  let m := fun x => sampleAt mag (j + x)
  if m 3 > m 2 / 3 then 1
  else if m 10 > m 9 / 3 then 1
  else if m 6 > m 7 / 3 then -1
  else if sampleAt mag (j - 1) > m 1 / 3 then -1
  else 0

/-- The rescaled sample: by 5/4 after a bit read high-then-low, else by 4/5, floor division, truncated to 16 bits
(R146, R16 (d)). -/
def rescale (first second : Nat) (d : Sample) : Sample :=
  if first > second then BitVec.ofNat 16 (d.toNat * 5 / 4) else BitVec.ofNat 16 (d.toNat * 4 / 5)

/-- One iteration of `CORRECT(j)`, for `k = 2i` (R146): `d[k+2]` is rewritten from `d[k]` and `d[k+1]`. -/
def correctStep (j : Nat) (mag : Memory 16) (i : Nat) : Memory 16 :=
  let d := j + Config.preambleSamples + 2 * i
  mag.write (d + 2) (rescale (sampleAt mag d) (sampleAt mag (d + 1)) (mag.read (d + 2)))

/-- The procedure `CORRECT(j)`: 111 iterations in order (R146). -/
def correct (mag : Memory 16) (j : Nat) : Memory 16 := (List.range (Config.longBits - 1)).foldl (correctStep j) mag

/-- PRECHK j (R143). -/
def execPrechk (j : BitVec 24) (s : State) : Result :=
  whenRunning s <|
    if prechkOk j s.magLen then
      let v := preamble s.mag j.toNat
      respond (prechkValue v.pass v.shape v.high) (latchHigh v s)
    else raise .range s

/-- PHDET j (R145): the phase sign-extended to 56 bits. -/
def execPhdet (j : BitVec 24) (s : State) : Result :=
  whenRunning s <|
    if phdetOk j s.magLen then respond (BitVec.ofInt 56 (phase s.mag j.toNat)) s else raise .range s

/-- PHCOR j (R147): the correction stays applied. -/
def execPhcor (j : BitVec 24) (s : State) : Result :=
  whenRunning s <|
    if phcorOk j s.magLen then respond 0 { s with mag := correct s.mag j.toNat } else raise .range s

end Sys2Proof.Machine
end

