-- ==== Sys2Proof/Machine/Sequencer.lean ====
section
/-! DEFINITION. The Scan Sequencer (45_demodulator.md): SCAN, DEMOD. -/

namespace Sys2Proof.Machine

/-- The four outcomes of a candidate (R226). -/
inductive CandidateOutcome where
  | noPreamble
  | weak
  | failed
  | accepted
  deriving DecidableEq, Repr

/-- `AUX[0..223] <- MAG[J+16 .. J+239]` (R229). -/
def saveRegion (j : Nat) (s : State) : State :=
  { s with aux := s.aux.writeBlock 0 (s.mag.readBlock (j + Config.preambleSamples) Config.auxCap) }

/-- `if J != 0 and PHASE(J) != 0: CORRECT(J)` (R229, R148). -/
def correctRegion (j : Nat) (s : State) : State :=
  { s with mag := if j ≠ 0 ∧ phase s.mag j ≠ 0 then correct s.mag j else s.mag }

/-- `MAG[J+16 .. J+239] <- AUX[0..223]`, sample for sample (R229). -/
def restoreRegion (j : Nat) (s : State) : State :=
  { s with mag := s.mag.writeBlock (j + Config.preambleSamples) (s.aux.readBlock 0 Config.auxCap) }

/-- The record of an accepted frame (R232): the bytes after any correction, those past a short message 0; the format
of the emitted byte 0; the address when the latched format is 11 or 17; and TS. -/
def recordOf (s : State) : OutRecord :=
  { bytes := msgOfBytes ((List.range 14).map fun n => if n < s.msgBits.toNat / 8 then msgByte s.msg n else 0)
    long := isLong s
    df := formatField s.msg
    av := isFixFormat s.df0
    addr := if isFixFormat s.df0 then literalAddress s.msg else 0
    ts := s.ts }

/-- The record is appended to OUTQ (R232). -/
def pushRecord (s : State) : State := { s with outq := s.outq ++ [recordOf s] }

/-- The error gate and validation (R231), and the emission (R232). -/
def judgeMessage (s : State) (cfg : Parameters := Config.defaults) : State × CandidateOutcome :=
  if s.errors ≠ 0 then (s, .failed)
  else
    let r := validateMsg s.ts s cfg
    if r.2.valid then (pushRecord r.1, .accepted) else (r.1, .failed)

/-- Length and quality gate (R230), then R231. -/
def judgeSlice (j : Nat) (s : State) (cfg : Parameters := Config.defaults) : State × CandidateOutcome :=
  let t := latchLength s cfg
  if qualityPasses (quality t.mag j t.msgBits.toNat cfg) then judgeMessage t cfg else (t, .weak)

/-- A candidate in ScanningNormal (R228, R230). -/
def normalCandidate (s : State) (cfg : Parameters := Config.defaults) : State × CandidateOutcome :=
  let v := preamble s.mag s.j.toNat
  let t := latchHigh v s
  if v.pass then judgeSlice s.j.toNat (writeSlice s.j.toNat t) cfg else (t, .noPreamble)

/-- The retry's save, correction, slice and restore (R229). -/
def retrySlice (j : Nat) (s : State) : State :=
  restoreRegion j (writeSlice j (correctRegion j (saveRegion j s)))

/-- A candidate in RetryWithPhaseCorrection (R229, R230). -/
def retryCandidate (s : State) (cfg : Parameters := Config.defaults) : State × CandidateOutcome :=
  judgeSlice s.j.toNat (retrySlice s.j.toNat s) cfg

/-- `CANDIDATE()` (R226 to R232). -/
def candidate (s : State) (cfg : Parameters := Config.defaults) : State × CandidateOutcome :=
  match s.mode with
  | .scanningNormal => normalCandidate s cfg
  | .retryWithPhaseCorrection => retryCandidate s cfg

/-- The advance past an accepted frame: its `2*(8 + MSGBITS)` samples and the step of 1 (R233). -/
def frameAdvance (msgBits : Nat) : Nat := Config.samplesPerUs * (Config.preambleUs + msgBits) + 1

/-- MODE after a candidate (R233). -/
def nextMode (mode : ScanMode) (o : CandidateOutcome) : ScanMode :=
  match mode, o with
  | .scanningNormal, .failed => .retryWithPhaseCorrection
  | _, _ => .scanningNormal

/-- J after a candidate (R233). The pair of MODE 1 and NoPreamble does not occur. -/
def nextJ (mode : ScanMode) (o : CandidateOutcome) (j msgBits : Nat) : Nat :=
  match mode, o with
  | .scanningNormal, .failed => j
  | _, .accepted => j + frameAdvance msgBits
  | _, _ => j + 1

/-- The transition of R233, applied to J and MODE. -/
def applyTransition (o : CandidateOutcome) (s : State) : State :=
  { s with
    j := BitVec.ofNat 24 (nextJ s.mode o s.j.toNat s.msgBits.toNat)
    mode := nextMode s.mode o }

/-- The loop condition `J + 240 < MAGLEN` (R227, R69). -/
def scanGoesOn (s : State) : Bool := s.j.toNat + Config.fullLen < s.magLen.toNat

/-- The loop of `RUNSCAN` (R227), with a bound on its candidates and the count so far. -/
def scanLoop (n : Nat) (s : State) (count : Nat) (cfg : Parameters := Config.defaults) : State × Nat :=
  match n with
  | 0 => (s, count)
  | n + 1 =>
    if scanGoesOn s then
      let r := candidate s cfg
      scanLoop n (applyTransition r.2 r.1) (if r.2 = .accepted then count + 1 else count) cfg
    else (s, count)

/-- `J <- 0; MODE <- 0` (R227). -/
def startScan (s : State) : State := { s with j := 0, mode := .scanningNormal }

/-- `RUNSCAN()` (R227): the state after it and the number of records pushed. The loop ends after at most
`2 * (MAGLEN - 240)` candidates (R233). -/
def runScan (s : State) (cfg : Parameters := Config.defaults) : State × Nat :=
  scanLoop (2 * (s.magLen.toNat - Config.fullLen)) (startScan s) 0 cfg

/-- `MAXMSG(L)` (R237): an accepted frame advances J by at least the advance of a short one, 129. -/
def maxMsg (len : Nat) : Nat :=
  if len ≤ Config.fullLen then 0
  else (len - Config.fullLen + (frameAdvance Config.shortBits - 1)) / frameAdvance Config.shortBits

/-- OUTQ lacks room for the worst case of a scan of `len` samples (R237). -/
def queueLacksRoom (s : State) (len : Nat) (cfg : Parameters := Config.defaults) : Bool :=
  cfg.outqCap - s.outq.length < maxMsg len

/-- The scan and its response (R235, R236). -/
def scanAndRespond (s : State) (cfg : Parameters := Config.defaults) : Result :=
  let r := runScan s cfg
  respond (scanValue r.1.j (BitVec.ofNat 24 r.2)) r.1

/-- SCAN (R235). -/
def execScan (s : State) (cfg : Parameters := Config.defaults) : Result :=
  whenRunning s <|
    if queueLacksRoom s s.magLen.toNat cfg then raise .qFull s else scanAndRespond s cfg

/-- DEMOD (R236): E_CHUNKLEN, then E_QFULL, then the vector is built and scanned. -/
def execDemod (s : State) (cfg : Parameters := Config.defaults) : Result :=
  whenRunning s <|
    if chunkLenBad s.chunkLen then raiseChunkLen s
    else if queueLacksRoom s (s.chunkLen.toNat / 2) cfg then raise .qFull s
    else scanAndRespond (buildVector s) cfg

end Sys2Proof.Machine
end

