-- ==== Sys2Proof/Machine/Dispatch.lean ====
section
/-! DEFINITION. One arm per command: each is one call of the command's own meaning (30_encoding.md R97). -/

namespace Sys2Proof.Machine

def exec (i : Instr) (s : State) : Host.Outcome State Fault Refusal :=
  match i with
  | .nop => Sys2Proof.Machine.execNop s
  | .sreset => Sys2Proof.Machine.execSreset s
  | .rdreg k => Sys2Proof.Machine.execRdreg k s
  | .setptr a => Sys2Proof.Machine.execSetptr a s
  | .wrb b => Sys2Proof.Machine.execWrb b s
  | .setlen n => Sys2Proof.Machine.execSetlen n s
  | .wrm h => Sys2Proof.Machine.execWrm h s
  | .setmlen n => Sys2Proof.Machine.execSetmlen n s
  | .rdmag => Sys2Proof.Machine.execRdmag s
  | .setts t => Sys2Proof.Machine.execSetts t s
  | .ldm0 m => Sys2Proof.Machine.execLdm0 m s
  | .ldm1 m => Sys2Proof.Machine.execLdm1 m s
  | .rdm0 => Sys2Proof.Machine.execRdm0 s
  | .rdm1 => Sys2Proof.Machine.execRdm1 s
  | .rdbit k => Sys2Proof.Machine.execRdbit k s
  | .pop => Sys2Proof.Machine.execPop s
  | .rdo0 => Sys2Proof.Machine.execRdo0 s
  | .rdo1 => Sys2Proof.Machine.execRdo1 s
  | .rdots => Sys2Proof.Machine.execRdots s
  | .rdb => Sys2Proof.Machine.execRdb s
  | .lutrd di dq => Sys2Proof.Machine.execLutrd di dq s
  | .magvec => Sys2Proof.Machine.execMagvec s
  | .prechk j => Sys2Proof.Machine.execPrechk j s
  | .phdet j => Sys2Proof.Machine.execPhdet j s
  | .phcor j => Sys2Proof.Machine.execPhcor j s
  | .slice j => Sys2Proof.Machine.execSlice j s
  | .qual j bits => Sys2Proof.Machine.execQual j bits s
  | .crc bits => Sys2Proof.Machine.execCrc bits s
  | .fix1 bits => Sys2Proof.Machine.execFix1 bits s
  | .fix2 bits => Sys2Proof.Machine.execFix2 bits s
  | .apchk bits => Sys2Proof.Machine.execApchk bits s
  | .validate => Sys2Proof.Machine.execValidate s
  | .crctab k => Sys2Proof.Machine.execCrctab k s
  | .ccont addr => Sys2Proof.Machine.execCcont addr s
  | .cins addr => Sys2Proof.Machine.execCins addr s
  | .demod => Sys2Proof.Machine.execDemod s
  | .scan => Sys2Proof.Machine.execScan s

end Sys2Proof.Machine
end

