-- ==== Sys2Proof/Machine/Step.lean ====
section
/-! DEFINITION. One step: the block takes the first of the host's inputs (30_encoding.md R90, R95; 70_reset_and_hazards.md
R320 to R322), and where a test puts a command word. Log entry 5. -/

namespace Sys2Proof.Machine

/-- One step of a block that executes commands by `run`. A command word is decoded and, if it is a command, executed; an
illegal word is answered E_ILLEGAL (R95). The reset input resets the block (R320), also while a command executes, which
is then abandoned without a response (R321). With nothing from the host the block waits (R322). -/
def stepBy (run : Instr → State → Result) (s : State) : Result :=
  match s.inputs with
  | [] => .next s
  | .command w :: rest =>
    match decode w with
    | .ok i => run i (takeInput rest s)
    | .error _ => answerIllegal (takeInput rest s)
  | .reset :: rest => resetInput (takeInput rest s)
  | .resetDuring _ :: rest => resetInput (takeInput rest s)

/-- One step of the block at the default parameters. -/
def step (s : State) : Host.Outcome State Fault Refusal := stepBy exec s

/-- The state with the command word whose bits are `w`, the bits from `nbits` on 0, as the host's next input. -/
def State.withFetchWord (s : State) (nbits w : Nat) : State :=
  offerCommand (BitVec.ofNat 64 (w % 2 ^ nbits)) s

end Sys2Proof.Machine
end

