-- ==== Sys2Proof/Safety.lean ====
section
/-! DEFINITION. The terms in which claims are made: the answers of the port, how a candidate ends, and the invariant that
every step keeps. Each part of the invariant is a bound or a form that 10_state.md states for a piece of state. -/

namespace Sys2Proof.Machine

/-- The response register after a command that ends with status OK and this value (R94). -/
def okAnswer (value : Nat) : Option PortWord := some (responseWord .ok (BitVec.ofNat 56 value))

/-- The response register after a command that raises an error (R94, R292). -/
def errorAnswer (st : Status) : Option PortWord := some (responseWord st 0)

/-- A step that goes on. -/
def StepsOn (s : State) : Prop := ∃ t, step s = .next t

/-- A record's unused parts are 0: the last seven bytes of a short one, the address of one without (R39). -/
abbrev OutRecord.clean (r : OutRecord) : Prop :=
  (r.long = false → r.bytes.extractLsb' 0 56 = 0) ∧ (r.av = false → r.addr = 0)

/-- The spaces and the cache have their canonical form, inside their capacities (R22, R23, R24, R37). -/
abbrev State.spacesCanonical (s : State) (cfg : Parameters := Config.defaults) : Prop :=
  s.chunk.wf cfg.chunkCap ∧ s.mag.wf cfg.magCap ∧ s.aux.wf Config.auxCap ∧
    rising s.cache ∧ ∀ e ∈ s.cache, e.1 < Config.cacheCap

/-- The lengths stay inside the capacities, J with them (R31, R34, R35). -/
abbrev State.lengthsBounded (s : State) (cfg : Parameters := Config.defaults) : Prop :=
  s.chunkLen.toNat ≤ cfg.chunkCap ∧ s.magLen.toNat ≤ cfg.magCap ∧ s.j.toNat ≤ cfg.magCap

/-- Between commands MODE is ScanningNormal (R32), ERRORS is 0 or 1 (R166), MSGBITS is 0, 56 or 112 (R29), and HIGH is
at most 43690 (R30). -/
abbrev State.registersInRange (s : State) : Prop :=
  s.mode = .scanningNormal ∧ s.errors.toNat ≤ 1 ∧
    (s.msgBits = 0 ∨ s.msgBits = 56 ∨ s.msgBits = 112) ∧ s.high.toNat ≤ 43690

/-- OUTQ never overflows, and its records and the OUT registers are clean (R39, R40, R237). -/
abbrev State.outputClean (s : State) (cfg : Parameters := Config.defaults) : Prop :=
  s.outq.length ≤ cfg.outqCap ∧ (∀ r ∈ s.outq, r.clean) ∧ s.out.clean

/-- FATAL_CAUSE names the only fatal error while FATAL is 1, and is 0 while FATAL is 0 (R41, R297). -/
abbrev State.fatalConsistent (s : State) : Prop :=
  s.fatalCause = if s.fatal then 0x03 else 0

/-- What the record of a frame accepted in this state holds (R232): the first `MSGBITS div 8` bytes of MSG, then zeros;
whether it is long; the format of MSG's first byte; the address of MSG's bytes 1 to 3 exactly when the latched format
is 11 or 17; and TS. -/
structure OutRecord.Describes (r : OutRecord) (t : State) : Prop where
  bytes : ∀ n < 14, msgByte r.bytes n = if n < t.msgBits.toNat / 8 then msgByte t.msg n else 0
  long : r.long = true ↔ t.msgBits = 112
  df : r.df.toNat = (msgByte t.msg 0).toNat / 8
  av : r.av = true ↔ t.df0 = 11 ∨ t.df0 = 17
  addr : r.addr.toNat = if r.av then (msgByte t.msg 1).toNat * 65536 + (msgByte t.msg 2).toNat * 256 +
    (msgByte t.msg 3).toNat else 0
  ts : r.ts = t.ts

/-- The state with the slice of these samples at `j` in BITS, ERRORS and MSG (R162, R164), and its length latched (R165). -/
def latchedSlice (samples : Memory 16) (j : Nat) (s : State) : State :=
  let slice := sliceBits samples j
  latchLength
    { s with bits := symbolVector slice.1, errors := slice.2, msg := packBits (symbolVector slice.1) }

/-- How a candidate ends whose slice and length stand latched in `sliced` (R230, R231, R232): with which outcome, each in
exactly its own case, and in which state. `strong` says that the quality gate passes. Validation runs only on a strong
slice without errors, and MSG and CACHE are then what it leaves, also of a candidate that it does not validate. -/
structure Judged (sliced : State) (strong : Prop) (o : CandidateOutcome) (t : State) : Prop where
  weak_iff : o = .weak ↔ ¬ strong
  failed_iff : o = .failed ↔
    strong ∧ ¬ (sliced.errors = 0 ∧ (validateMsg sliced.ts sliced).2.valid = true)
  accepted_iff : o = .accepted ↔
    strong ∧ sliced.errors = 0 ∧ (validateMsg sliced.ts sliced).2.valid = true
  not_validated : ¬ (strong ∧ sliced.errors = 0) → t = sliced
  failed : o = .failed → sliced.errors = 0 →
    t = { sliced with
      msg := (validateMsg sliced.ts sliced).1.msg, cache := (validateMsg sliced.ts sliced).1.cache }
  accepted : o = .accepted → ∃ r : OutRecord, r.Describes t ∧
    t = { sliced with
      msg := (validateMsg sliced.ts sliced).1.msg, cache := (validateMsg sliced.ts sliced).1.cache
      outq := sliced.outq ++ [r] }

/-- The invariant of the block. -/
abbrev State.Inv (s : State) (cfg : Parameters := Config.defaults) : Prop :=
  s.spacesCanonical cfg ∧ s.lengthsBounded cfg ∧ s.registersInRange ∧ s.outputClean cfg ∧ s.fatalConsistent

end Sys2Proof.Machine
end

