-- ==== Sys2Proof/Certificates/Slice0/Obligations.lean ====
section
/-! DEFINITION. The statements for the provers. Response values are written as numbers, bit by bit as the rules give
them, and what a command leaves unchanged is said by writing its next state as the old one with the changed fields
replaced: every field not named there is unchanged. A space is spoken of through the read of one element. -/

open Sys2Proof Sys2Proof.Machine

/-! ### Decoding -/

/-- R96 with the masks of its formats: an opcode's word is accepted exactly when `cmd & mask == match`; and R95 (1): a word
of any other opcode is accepted by none. -/
def Obligations.DecodeAcceptsByMatchAndMask : Prop :=
  ∀ w : PortWord, let rows := ([
      (0x00, 0xFFFFFFFFFFFFFFFF), (0x01, 0xFFFFFFFFFFFFFFFF), (0x02, 0xFFFFFFFFFFFFFF00),
      (0x03, 0xFFFFFFFFFF000000), (0x04, 0xFFFFFFFFFFFFFF00), (0x05, 0xFFFFFFFFFF000000),
      (0x06, 0xFFFFFFFFFFFF0000), (0x07, 0xFFFFFFFFFF000000), (0x08, 0xFFFFFFFFFFFFFFFF),
      (0x09, 0xFF00000000000000), (0x0A, 0xFF00000000000000), (0x0B, 0xFF00000000000000),
      (0x0C, 0xFFFFFFFFFFFFFFFF), (0x0D, 0xFFFFFFFFFFFFFFFF), (0x0E, 0xFFFFFFFFFFFFFF00),
      (0x0F, 0xFFFFFFFFFFFFFFFF), (0x10, 0xFFFFFFFFFFFFFFFF), (0x11, 0xFFFFFFFFFFFFFFFF),
      (0x12, 0xFFFFFFFFFFFFFFFF), (0x13, 0xFFFFFFFFFFFFFFFF), (0x20, 0xFFFFFFFFFFFF0000),
      (0x21, 0xFFFFFFFFFFFFFFFF), (0x30, 0xFFFFFFFFFF000000), (0x31, 0xFFFFFFFFFF000000),
      (0x32, 0xFFFFFFFFFF000000), (0x40, 0xFFFFFFFFFF000000), (0x41, 0xFFFFFFFF00000000),
      (0x50, 0xFFFFFFFFFFFFFF00), (0x51, 0xFFFFFFFFFFFFFF00), (0x52, 0xFFFFFFFFFFFFFF00),
      (0x53, 0xFFFFFFFFFFFFFF00), (0x54, 0xFFFFFFFFFFFFFFFF), (0x55, 0xFFFFFFFFFFFFFF00),
      (0x60, 0xFFFFFFFFFF000000), (0x61, 0xFFFFFFFFFF000000), (0x70, 0xFFFFFFFFFFFFFFFF),
      (0x71, 0xFFFFFFFFFFFFFFFF)] : List (BitVec 8 × PortWord))
    (∀ r ∈ rows, (w &&& r.2 = r.1 ++ (0 : BitVec 56)) ↔ (w.extractLsb' 56 8 = r.1 ∧ ∃ i, decode w = .ok i)) ∧
    ((∀ r ∈ rows, w.extractLsb' 56 8 ≠ r.1) ↔ decode w = .error (.undefinedOpcode (w.extractLsb' 56 8)))

/-- Words written out in the spec (30_encoding.md R100, the examples of the command rules, 95_test_vectors.md) decode to the
commands they stand for. A sanity statement. -/
def Obligations.DecodesWordsWrittenInTheSpec : Prop :=
  decode 0x0000000000000000 = .ok .nop ∧
  decode 0x020000000000000C = .ok (.rdreg 12) ∧
  decode 0x04000000000000E3 = .ok (.wrb 227) ∧
  decode 0x090000003B9ACA00 = .ok (.setts 1000000000) ∧
  decode 0x0A8D4840D6202CC3 = .ok (.ldm0 0x8D4840D6202CC3) ∧
  decode 0x2000000000000304 = .ok (.lutrd 3 4) ∧
  decode 0x3000000000000005 = .ok (.prechk 5) ∧
  decode 0x4100000070000005 = .ok (.qual 5 112) ∧
  decode 0x5300000000000070 = .ok (.apchk 112) ∧
  decode 0x61000000004840D6 = .ok (.cins 0x4840D6) ∧
  decode 0x7100000000000000 = .ok .scan ∧
  decode 0x0000000000000001 = .error (.reservedOperandBits 0x00) ∧
  decode 0x4100000139000000 = .error (.reservedOperandBits 0x41) ∧
  decode 0x1400000000000000 = .error (.undefinedOpcode 0x14)

/-- Decode and encode agree, every operand at every value its width admits (so also for every well-formed command). -/
def Obligations.DecodeInvertsEncode : Prop :=
  ∀ i : Instr, decode (encode i) = .ok i

/-- Each accepted word has one meaning and no other word means the same (R95: "no encoding that executes as another
command"). -/
def Obligations.EncodeInvertsDecode : Prop :=
  ∀ (w : PortWord) (i : Instr), decode w = .ok i → encode i = w

/-- A step runs the decoded command, on the state with the command word taken from the host's inputs. The queue of inputs is
the model's choice (log entry 5). -/
def Obligations.StepRunsDecodedCommand : Prop :=
  ∀ (s : State) (w : PortWord) (rest : List HostInput) (i : Instr),
    s.inputs = .command w :: rest → decode w = .ok i →
      step s = exec i { s with inputs := rest }

/-- R95: an illegal word raises E_ILLEGAL and changes no state, whether or not FATAL is set. The queue of inputs and the
response register are the model's choice (log entries 5 and 6). -/
def Obligations.IllegalWordAnswersIllegal : Prop :=
  ∀ (s : State) (w : PortWord) (rest : List HostInput) (e : DecodeError),
    s.inputs = .command w :: rest → decode w = .error e →
      step s = .next { s with inputs := rest, rsp := some 0x0100000000000000 }

/-! ### Responses, reset, errors, the fatal state -/

/-- R94, R290: the response is the status byte above the value, with these eight codes. -/
def Obligations.ResponseWordLayout : Prop :=
  ∀ v : BitVec 56,
    (responseWord .ok v).toNat = v.toNat ∧
    (responseWord .illegal v).toNat = 1 * 2 ^ 56 + v.toNat ∧
    (responseWord .range v).toNat = 2 * 2 ^ 56 + v.toNat ∧
    (responseWord .chunkLen v).toNat = 3 * 2 ^ 56 + v.toNat ∧
    (responseWord .bits v).toNat = 4 * 2 ^ 56 + v.toNat ∧
    (responseWord .empty v).toNat = 5 * 2 ^ 56 + v.toNat ∧
    (responseWord .qFull v).toNat = 6 * 2 ^ 56 + v.toNat ∧
    (responseWord .fatal v).toNat = 7 * 2 ^ 56 + v.toNat

/-- R46: the value of every piece of state after reset. -/
def Obligations.ResetValues : Prop :=
  (∀ a, State.reset.chunk.read a = 0) ∧ (∀ a, State.reset.mag.read a = 0) ∧
  (∀ a, State.reset.aux.read a = 0) ∧ (∀ k, symbolAt State.reset.bits k = .zero) ∧
  State.reset.msg = 0 ∧ State.reset.errors = 0 ∧ State.reset.df0 = 0 ∧ State.reset.msgBits = 0 ∧
  State.reset.high = 0 ∧ State.reset.j = 0 ∧ State.reset.mode = .scanningNormal ∧ State.reset.ptr = 0 ∧
  State.reset.chunkLen = 0 ∧ State.reset.magLen = 0 ∧ State.reset.ts = 0 ∧
  (∀ a, lookupAt State.reset.cache a = none) ∧ cacheCount State.reset = 0 ∧
  State.reset.outq = [] ∧ outqCount State.reset = 0 ∧
  State.reset.out = { bytes := 0, long := false, df := 0, av := false, addr := 0, ts := 0 } ∧
  State.reset.fatal = false ∧ State.reset.fatalCause = 0

/-- The state after reset meets the invariant. The canonical form of the spaces is the model's choice (log entry 7). -/
def Obligations.ResetMeetsInvariant : Prop := State.reset.Inv

/-- Every step keeps the invariant: the spaces keep their canonical form inside their capacities, the lengths, J and OUTQ
stay bounded, MODE is ScanningNormal between commands, and FATAL_CAUSE names the fatal error. The canonical form and the
bound of J by the capacity are the model's choice (log entries 7 and 15). -/
def Obligations.StepKeepsInvariant : Prop :=
  ∀ s t : State, s.Inv → step s = .next t → t.Inv

/-- R320, R321: the reset input leaves the state after reset, also while a command executes, and gives no response. That it
is one input of the queue and empties the response register is the model's choice (log entries 5 and 6). -/
def Obligations.ResetInputResetsTheBlock : Prop :=
  ∀ (s : State) (w : PortWord) (rest : List HostInput),
    (s.inputs = .reset :: rest → step s = .next { State.reset with inputs := rest }) ∧
    (s.inputs = .resetDuring w :: rest → step s = .next { State.reset with inputs := rest })

/-- R250, R251: NOP changes nothing and SRESET puts every piece of state at its reset value; both answer 0, in every state,
FATAL or not. -/
def Obligations.NopAndSresetAnswerZero : Prop :=
  ∀ s : State,
    exec .nop s = .next { s with rsp := okAnswer 0 } ∧
    exec .sreset s = .next { State.reset with inputs := s.inputs, rsp := okAnswer 0 } ∧
    encode .nop = 0x0000000000000000 ∧ encode .sreset = 0x0100000000000000

/-- R333, R290, R94: every command, in every state, completes with one response whose status is one of the eight codes;
an error's value is 0; no command consumes a further input of the host. -/
def Obligations.EveryCommandIsAnswered : Prop :=
  ∀ (i : Instr) (s : State), ∃ (t : State) (st : Status) (v : BitVec 56),
    exec i s = .next t ∧ t.rsp = some (responseWord st v) ∧ (st ≠ .ok → v = 0) ∧ t.inputs = s.inputs

/-- R292: a command error carries its code and value 0, and changes no architectural state. -/
def Obligations.CommandErrorChangesNothing : Prop :=
  ∀ (i : Instr) (s t : State) (st : Status) (v : BitVec 56),
    exec i s = .next t → t.rsp = some (responseWord st v) → st ≠ .ok → st ≠ .chunkLen →
      t = { s with rsp := some (responseWord st 0) }

/-- R293, with R124 and R236: MAGVEC and DEMOD alone raise the fatal error, exactly on a chunk length of zero or an odd one; it
sets FATAL and FATAL_CAUSE and changes nothing else. -/
def Obligations.FatalErrorSetsFatalOnly : Prop :=
  (∀ (i : Instr) (s t : State) (v : BitVec 56),
    exec i s = .next t → t.rsp = some (responseWord .chunkLen v) →
      (i = .magvec ∨ i = .demod) ∧ s.fatal = false ∧
        t = { s with fatal := true, fatalCause := 0x03, rsp := some 0x0300000000000000 }) ∧
  (∀ (i : Instr) (s : State), (i = .magvec ∨ i = .demod) → s.fatal = false →
    ((s.chunkLen.toNat = 0 ∨ s.chunkLen.toNat % 2 = 1) ↔
      exec i s = .next { s with fatal := true, fatalCause := 0x03, rsp := some 0x0300000000000000 }))

/-- R296: while FATAL is 1 only NOP, SRESET, RDREG, POP, RDO0, RDO1 and RDOTS are executed; every other command answers
E_FATAL and changes nothing. -/
def Obligations.FatalRefusesAllButSeven : Prop :=
  ∀ (i : Instr) (s : State), s.fatal = true →
    (i = .nop ∨ i = .sreset ∨ (∃ k, i = .rdreg k) ∨ i = .pop ∨ i = .rdo0 ∨ i = .rdo1 ∨ i = .rdots →
      ∃ t, exec i s = .next t ∧ t.rsp ≠ errorAnswer .fatal) ∧
    (¬ (i = .nop ∨ i = .sreset ∨ (∃ k, i = .rdreg k) ∨ i = .pop ∨ i = .rdo0 ∨ i = .rdo1 ∨ i = .rdots) →
      exec i s = .next { s with rsp := errorAnswer .fatal })

/-- R297: only the reset input or SRESET clears FATAL, and both also empty the cache and the queue; while FATAL is 1
FATAL_CAUSE does not change. -/
def Obligations.OnlyResetLeavesTheFatalState : Prop :=
  ∀ s t : State, s.fatal = true → step s = .next t →
    (t.fatal = true ∧ t.fatalCause = s.fatalCause) ∨
    (t.cache = [] ∧ t.outq = [] ∧
      ((∃ rest, s.inputs = .reset :: rest) ∨ (∃ w rest, s.inputs = .resetDuring w :: rest) ∨
        (∃ w rest, s.inputs = .command w :: rest ∧ decode w = .ok .sreset)))

/-- R42 and the rules of the commands: which commands, SRESET apart, may change each register. -/
def Obligations.OnlyTheNamedCommandsWriteRegisters : Prop :=
  ∀ (i : Instr) (s t : State), exec i s = .next t → i ≠ .sreset →
    (t.ptr = s.ptr ∨ (∃ a, i = .setptr a) ∨ (∃ b, i = .wrb b) ∨ i = .rdb ∨ (∃ h, i = .wrm h) ∨ i = .rdmag) ∧
    (t.chunkLen = s.chunkLen ∨ ∃ n, i = .setlen n) ∧
    (t.magLen = s.magLen ∨ i = .magvec ∨ i = .demod ∨ ∃ n, i = .setmlen n) ∧
    (t.ts = s.ts ∨ ∃ x, i = .setts x) ∧
    (t.j = s.j ∨ i = .scan ∨ i = .demod) ∧
    (t.mode = s.mode ∨ i = .scan ∨ i = .demod) ∧
    (t.errors = s.errors ∨ (∃ j, i = .slice j) ∨ i = .scan ∨ i = .demod) ∧
    ((t.df0 = s.df0 ∧ t.msgBits = s.msgBits) ∨
      (∃ j, i = .slice j) ∨ i = .validate ∨ i = .scan ∨ i = .demod) ∧
    (t.high = s.high ∨ (∃ j, i = .prechk j) ∨ i = .scan ∨ i = .demod) ∧
    (t.outq = s.outq ∨ i = .scan ∨ i = .demod ∨ i = .pop) ∧
    (t.cache = s.cache ∨ (∃ a, i = .cins a) ∨ (∃ a, i = .ccont a) ∨ (∃ b, i = .apchk b) ∨ i = .validate ∨
      i = .scan ∨ i = .demod) ∧
    (t.chunk = s.chunk ∨ ∃ b, i = .wrb b) ∧
    (t.bits = s.bits ∨ (∃ j, i = .slice j) ∨ i = .scan ∨ i = .demod) ∧
    (t.aux = s.aux ∨ i = .scan ∨ i = .demod) ∧
    (t.out = s.out ∨ i = .pop) ∧
    (t.mag = s.mag ∨ i = .magvec ∨ i = .demod ∨ i = .scan ∨ (∃ h, i = .wrm h) ∨ ∃ j, i = .phcor j) ∧
    (t.msg = s.msg ∨ (∃ m, i = .ldm0 m) ∨ (∃ m, i = .ldm1 m) ∨ (∃ j, i = .slice j) ∨ (∃ b, i = .fix1 b) ∨
      (∃ b, i = .fix2 b) ∨ i = .validate ∨ i = .scan ∨ i = .demod) ∧
    ((t.fatal = s.fatal ∧ t.fatalCause = s.fatalCause) ∨ i = .magvec ∨ i = .demod)

/-! ### Host access and system commands -/

/-- R42, R43, R252: what RDREG reads from every register number, STATUS among them, and E_RANGE from a reserved one; in
every state, FATAL or not. The level outputs of R300 are STATUS bits 0 and 1. That registers 11 and 12 show a count too
great for their 24 and 25 bits truncated is the model's choice, DEDUCED (log entry 14): no run reaches such a count. -/
def Obligations.RdregReadsTheRegisterMap : Prop :=
  ∀ (s : State) (k : BitVec 8),
    (∀ v : Nat, (k.toNat, v) ∈ [
        (0, s.fatal.toNat + 2 * (decide (s.outq ≠ [])).toNat + 256 * s.fatalCause.toNat),
        (1, s.ptr.toNat), (2, s.chunkLen.toNat), (3, s.magLen.toNat), (4, s.ts.toNat), (5, s.j.toNat),
        (6, if s.mode = .scanningNormal then 0 else 1), (7, s.errors.toNat), (8, s.df0.toNat),
        (9, s.msgBits.toNat), (10, s.high.toNat), (11, s.outq.length % 2 ^ 24), (12, s.cache.length % 2 ^ 25),
        (16, 262144), (17, 131072), (18, 4096), (19, 60000000), (20, 1000000), (21, 7)] →
      exec (.rdreg k) s = .next { s with rsp := okAnswer v }) ∧
    (¬ (k.toNat ≤ 12 ∨ (16 ≤ k.toNat ∧ k.toNat ≤ 21)) →
      exec (.rdreg k) s = .next { s with rsp := errorAnswer .range }) ∧
    fatalLevel s = s.fatal ∧ (msgAvail s = true ↔ s.outq ≠ []) ∧
    encode (.rdreg k) = 0x02#8 ++ 0#48 ++ k

/-- R253, R255, R257, R259: SETPTR and SETTS store their operand, whatever it is; SETLEN and SETMLEN store a length up to the
capacity and raise E_RANGE beyond it. -/
def Obligations.SetCommandsStoreTheirOperand : Prop :=
  ∀ (s : State) (a : BitVec 24) (t : BitVec 56), s.fatal = false →
    exec (.setptr a) s = .next { s with ptr := a, rsp := okAnswer 0 } ∧
    exec (.setts t) s = .next { s with ts := t, rsp := okAnswer 0 } ∧
    (a.toNat ≤ 262144 → exec (.setlen a) s = .next { s with chunkLen := a, rsp := okAnswer 0 }) ∧
    (262144 < a.toNat → exec (.setlen a) s = .next { s with rsp := errorAnswer .range }) ∧
    (a.toNat ≤ 131072 → exec (.setmlen a) s = .next { s with magLen := a, rsp := okAnswer 0 }) ∧
    (131072 < a.toNat → exec (.setmlen a) s = .next { s with rsp := errorAnswer .range }) ∧
    encode (.setptr a) = 0x03#8 ++ 0#32 ++ a ∧ encode (.setlen a) = 0x05#8 ++ 0#32 ++ a ∧
    encode (.setmlen a) = 0x07#8 ++ 0#32 ++ a ∧ encode (.setts t) = 0x09#8 ++ t

/-- R254, R256: WRB and WRM store one element at PTR, no other element changes, and PTR moves on by one without wrapping; at
the capacity they raise E_RANGE. -/
def Obligations.WriteCommandsStoreOneElement : Prop :=
  ∀ (s : State) (b : BitVec 8) (h : BitVec 16), s.fatal = false →
    (s.ptr.toNat < 262144 → ∃ (c : Memory 8) (next : BitVec 24),
      exec (.wrb b) s = .next { s with chunk := c, ptr := next, rsp := okAnswer 0 } ∧
      next.toNat = s.ptr.toNat + 1 ∧ ∀ a, c.read a = if a = s.ptr.toNat then b else s.chunk.read a) ∧
    (262144 ≤ s.ptr.toNat → exec (.wrb b) s = .next { s with rsp := errorAnswer .range }) ∧
    (s.ptr.toNat < 131072 → ∃ (m : Memory 16) (next : BitVec 24),
      exec (.wrm h) s = .next { s with mag := m, ptr := next, rsp := okAnswer 0 } ∧
      next.toNat = s.ptr.toNat + 1 ∧ ∀ a, m.read a = if a = s.ptr.toNat then h else s.mag.read a) ∧
    (131072 ≤ s.ptr.toNat → exec (.wrm h) s = .next { s with rsp := errorAnswer .range }) ∧
    encode (.wrb b) = 0x04#8 ++ 0#48 ++ b ∧ encode (.wrm h) = 0x06#8 ++ 0#40 ++ h

/-- R258, R269: RDB and RDMAG answer the element at PTR and move PTR on; at and past the length they raise E_RANGE. -/
def Obligations.ReadCommandsAnswerOneElement : Prop :=
  ∀ s : State, s.fatal = false →
    (s.ptr.toNat < s.chunkLen.toNat → ∃ next : BitVec 24, next.toNat = s.ptr.toNat + 1 ∧
      exec .rdb s = .next { s with ptr := next, rsp := okAnswer (s.chunk.read s.ptr.toNat).toNat }) ∧
    (s.chunkLen.toNat ≤ s.ptr.toNat → exec .rdb s = .next { s with rsp := errorAnswer .range }) ∧
    (s.ptr.toNat < s.magLen.toNat → ∃ next : BitVec 24, next.toNat = s.ptr.toNat + 1 ∧
      exec .rdmag s = .next { s with ptr := next, rsp := okAnswer (s.mag.read s.ptr.toNat).toNat }) ∧
    (s.magLen.toNat ≤ s.ptr.toNat → exec .rdmag s = .next { s with rsp := errorAnswer .range }) ∧
    encode .rdb = 0x1300000000000000 ∧ encode .rdmag = 0x0800000000000000

/-- R260, R261, R66: LDM0 and LDM1 load seven bytes each, the first in the operand's most significant byte, and keep the
other seven. -/
def Obligations.LoadMessageMovesSevenBytes : Prop :=
  ∀ (s : State) (m : BitVec 56), s.fatal = false →
    (∃ M, exec (.ldm0 m) s = .next { s with msg := M, rsp := okAnswer 0 } ∧
      (∀ n < 7, msgByte M n = m.extractLsb' (48 - 8 * n) 8) ∧
      (∀ n, 7 ≤ n → n < 14 → msgByte M n = msgByte s.msg n)) ∧
    (∃ M, exec (.ldm1 m) s = .next { s with msg := M, rsp := okAnswer 0 } ∧
      (∀ n < 7, msgByte M (7 + n) = m.extractLsb' (48 - 8 * n) 8) ∧
      (∀ n < 7, msgByte M n = msgByte s.msg n)) ∧
    encode (.ldm0 m) = 0x0A#8 ++ m ∧ encode (.ldm1 m) = 0x0B#8 ++ m

/-- R262, R263, R266, R267, R268, R66: the seven bytes that RDM0, RDM1, RDO0 and RDO1 answer, the first most significant,
and RDOTS; the last three also while FATAL is 1. -/
def Obligations.ReadMessageAnswersSevenBytes : Prop :=
  ∀ s : State, ∃ v0 v1 o0 o1 : BitVec 56,
    (s.fatal = false → exec .rdm0 s = .next { s with rsp := some (responseWord .ok v0) }) ∧
    (s.fatal = false → exec .rdm1 s = .next { s with rsp := some (responseWord .ok v1) }) ∧
    exec .rdo0 s = .next { s with rsp := some (responseWord .ok o0) } ∧
    exec .rdo1 s = .next { s with rsp := some (responseWord .ok o1) } ∧
    exec .rdots s = .next { s with rsp := okAnswer s.out.ts.toNat } ∧
    encode .rdm0 = 0x0C00000000000000 ∧ encode .rdm1 = 0x0D00000000000000 ∧
    encode .rdo0 = 0x1000000000000000 ∧ encode .rdo1 = 0x1100000000000000 ∧ encode .rdots = 0x1200000000000000 ∧
    ∀ n < 7,
      v0.extractLsb' (48 - 8 * n) 8 = msgByte s.msg n ∧ v1.extractLsb' (48 - 8 * n) 8 = msgByte s.msg (7 + n) ∧
      o0.extractLsb' (48 - 8 * n) 8 = msgByte s.out.bytes n ∧
      o1.extractLsb' (48 - 8 * n) 8 = msgByte s.out.bytes (7 + n)

/-- R264: RDBIT answers the symbol as 0, 1 or 2, and E_RANGE past bit 111. -/
def Obligations.RdbitReadsOneSymbol : Prop :=
  ∀ (s : State) (k : BitVec 8), s.fatal = false →
    (k.toNat ≤ 111 → ∃ v : Nat,
      exec (.rdbit k) s = .next { s with rsp := okAnswer v } ∧
      (v = 0 ↔ s.bits[k.toNat]? = some .zero) ∧ (v = 1 ↔ s.bits[k.toNat]? = some .one) ∧
      (v = 2 ↔ s.bits[k.toNat]? = some .ambiguous)) ∧
    (111 < k.toNat → exec (.rdbit k) s = .next { s with rsp := errorAnswer .range }) ∧
    encode (.rdbit k) = 0x0E#8 ++ 0#48 ++ k

/-- R265: POP removes the oldest record, loads the OUT registers and answers the record's format, length class and
address; E_EMPTY when there is none; in every state, FATAL or not. -/
def Obligations.PopTakesTheOldestRecord : Prop :=
  ∀ s : State,
    (∀ r rest, s.outq = r :: rest →
      exec .pop s = .next { s with
        outq := rest
        out := r
        rsp := okAnswer (r.addr.toNat + 2 ^ 24 * r.av.toNat + 2 ^ 25 * r.df.toNat + 2 ^ 30 * r.long.toNat) }) ∧
    (s.outq = [] → exec .pop s = .next { s with rsp := errorAnswer .empty }) ∧
    encode .pop = 0x0F00000000000000

/-! ### Magnitude -/

/-- R120: the table is the rounded magnitude, in the three forms that the rule gives. -/
def Obligations.MaglutIsTheRoundedMagnitude : Prop :=
  ∀ i q : Nat, i ≤ 128 → q ≤ 128 →
    ((maglut i q).toNat : ℤ) = round (Real.sqrt ((i : ℝ) ^ 2 + (q : ℝ) ^ 2) * 360) ∧
    (maglut i q).toNat = (Nat.sqrt (518400 * (i * i + q * q)) + 1) / 2 ∧
    (i * i + q * q = 0 → maglut i q = 0) ∧
    (0 < i * i + q * q →
      (2 * (maglut i q).toNat - 1) ^ 2 < 518400 * (i * i + q * q) ∧
      518400 * (i * i + q * q) < (2 * (maglut i q).toNat + 1) ^ 2)

/-- R121 (a) to (d), which the spec derives: symmetry, the axis, the largest entry, and monotonicity. -/
def Obligations.MaglutIsSymmetricAndMonotone : Prop :=
  ∀ i q : Nat, i ≤ 128 → q ≤ 128 →
    maglut i q = maglut q i ∧ (maglut i 0).toNat = 360 * i ∧ (maglut i q).toNat ≤ 65167 ∧
    (maglut 128 128).toNat = 65167 ∧
    (∀ i', i ≤ i' → i' ≤ 128 → (maglut i q).toNat ≤ (maglut i' q).toNat)

/-- R122: LUTRD answers the table entry, and E_RANGE when an index is past 128. -/
def Obligations.LutrdReadsTheTable : Prop :=
  ∀ (s : State) (i q : BitVec 8), s.fatal = false →
    (i.toNat ≤ 128 ∧ q.toNat ≤ 128 →
      exec (.lutrd i q) s = .next { s with rsp := okAnswer (maglut i.toNat q.toNat).toNat }) ∧
    (128 < i.toNat ∨ 128 < q.toNat → exec (.lutrd i q) s = .next { s with rsp := errorAnswer .range }) ∧
    encode (.lutrd i q) = 0x20#8 ++ 0#40 ++ i ++ q

/-- R123, R124: MAGVEC writes the magnitude of every sample pair below half the chunk's length, I before Q, sets MAGLEN,
and changes no sample at or above the new MAGLEN; on a length of zero or an odd one it raises the fatal error. -/
def Obligations.MagvecBuildsTheVector : Prop :=
  ∀ s : State, s.fatal = false →
    (s.chunkLen.toNat ≠ 0 → s.chunkLen.toNat % 2 = 0 → ∃ m : Memory 16,
      exec .magvec s = .next { s with
        mag := m
        magLen := BitVec.ofNat 24 (s.chunkLen.toNat / 2)
        rsp := okAnswer (s.chunkLen.toNat / 2) } ∧
      (∀ k, k < s.chunkLen.toNat / 2 →
        m.read k = maglut ((s.chunk.read (2 * k)).toNat - 127 + (127 - (s.chunk.read (2 * k)).toNat))
          ((s.chunk.read (2 * k + 1)).toNat - 127 + (127 - (s.chunk.read (2 * k + 1)).toNat))) ∧
      (∀ k, s.chunkLen.toNat / 2 ≤ k → m.read k = s.mag.read k)) ∧
    (s.chunkLen.toNat = 0 ∨ s.chunkLen.toNat % 2 = 1 →
      exec .magvec s = .next { s with fatal := true, fatalCause := 0x03, rsp := errorAnswer .chunkLen }) ∧
    encode .magvec = 0x2100000000000000

/-! ### Preamble and phase -/

/-- R141, R143: the ten comparisons, the level and the six samples tested against it; HIGH is written when the shape
test passes and only then; what PRECHK answers, and E_RANGE outside its range. -/
def Obligations.PrechkTestsThePreamble : Prop :=
  ∀ (s : State) (j : BitVec 24), s.fatal = false →
    let m := fun x => (s.mag.read (j.toNat + x)).toNat
    let shape := m 0 > m 1 ∧ m 1 < m 2 ∧ m 2 > m 3 ∧ m 3 < m 0 ∧ m 4 < m 0 ∧ m 5 < m 0 ∧ m 6 < m 0 ∧
      m 7 > m 8 ∧ m 8 < m 9 ∧ m 9 > m 6
    let high := (m 0 + m 2 + m 7 + m 9) / 6
    let quiet := m 4 < high ∧ m 5 < high ∧ m 11 < high ∧ m 12 < high ∧ m 13 < high ∧ m 14 < high
    (j.toNat + 14 < s.magLen.toNat → ¬ shape → exec (.prechk j) s = .next { s with rsp := okAnswer 0 }) ∧
    (j.toNat + 14 < s.magLen.toNat → shape ∧ ¬ quiet → exec (.prechk j) s =
      .next { s with high := BitVec.ofNat 16 high, rsp := okAnswer (2 + 65536 * high) }) ∧
    (j.toNat + 14 < s.magLen.toNat → shape ∧ quiet → exec (.prechk j) s =
      .next { s with high := BitVec.ofNat 16 high, rsp := okAnswer (3 + 65536 * high) }) ∧
    (¬ j.toNat + 14 < s.magLen.toNat → exec (.prechk j) s = .next { s with rsp := errorAnswer .range }) ∧
    high ≤ 43690 ∧ encode (.prechk j) = 0x30#8 ++ 0#32 ++ j

/-- R144, R145: the first true comparison decides; what PHDET answers for +1, -1 and 0, and E_RANGE outside its range. -/
def Obligations.PhdetReportsTheFirstBias : Prop :=
  ∀ (s : State) (j : BitVec 24), s.fatal = false →
    let m := fun x => (s.mag.read (j.toNat + x)).toNat
    let inRange := 1 ≤ j.toNat ∧ j.toNat + 10 < s.magLen.toNat
    let late := m 3 > m 2 / 3 ∨ m 10 > m 9 / 3
    let early := m 6 > m 7 / 3 ∨ (s.mag.read (j.toNat - 1)).toNat > m 1 / 3
    (inRange → late → exec (.phdet j) s = .next { s with rsp := okAnswer 1 }) ∧
    (inRange → ¬ late ∧ early → exec (.phdet j) s = .next { s with rsp := okAnswer 0xFFFFFFFFFFFFFF }) ∧
    (inRange → ¬ late ∧ ¬ early → exec (.phdet j) s = .next { s with rsp := okAnswer 0 }) ∧
    (¬ inRange → exec (.phdet j) s = .next { s with rsp := errorAnswer .range }) ∧
    encode (.phdet j) = 0x31#8 ++ 0#32 ++ j

/-- R146, R147: PHCOR rewrites the first sample of bits 1 to 111 from the bit before it as already rewritten, and no other
sample; it leaves the correction applied. E_RANGE outside its range. -/
def Obligations.PhcorRescalesInPlace : Prop :=
  ∀ (s : State) (j : BitVec 24), s.fatal = false →
    (j.toNat + 238 < s.magLen.toNat → ∃ m : Memory 16,
      exec (.phcor j) s = .next { s with mag := m, rsp := okAnswer 0 } ∧
      (∀ k < 111,
        (m.read (j.toNat + 16 + 2 * k + 2)).toNat =
          (if (m.read (j.toNat + 16 + 2 * k)).toNat > (s.mag.read (j.toNat + 16 + 2 * k + 1)).toNat
            then (s.mag.read (j.toNat + 16 + 2 * k + 2)).toNat * 5 / 4
            else (s.mag.read (j.toNat + 16 + 2 * k + 2)).toNat * 4 / 5) % 65536) ∧
      (∀ a, (∀ k < 111, a ≠ j.toNat + 16 + 2 * k + 2) → m.read a = s.mag.read a)) ∧
    (¬ j.toNat + 238 < s.magLen.toNat → exec (.phcor j) s = .next { s with rsp := errorAnswer .range }) ∧
    encode (.phcor j) = 0x32#8 ++ 0#32 ++ j

/-! ### Slicer and quality gate -/

/-- R161, R162, R164, R165, R167: every symbol from the samples and the symbol before it, the error counter, the packed
bytes, the latched format and length, and what SLICE answers; E_RANGE outside its range. -/
def Obligations.SliceClassifiesAndPacks : Prop :=
  ∀ (s : State) (j : BitVec 24), s.fatal = false →
    let a := fun k => (s.mag.read (j.toNat + 16 + 2 * k)).toNat
    let b := fun k => (s.mag.read (j.toNat + 17 + 2 * k)).toNat
    let repeated := fun k => 0 < k ∧ (a k - b k) + (b k - a k) < 256
    (j.toNat + 239 < s.magLen.toNat →
      ∃ (B : Vector Symbol 112) (M : Msg) (e : BitVec 6) (d : BitVec 5) (n : BitVec 7),
        exec (.slice j) s = .next { s with
          bits := B, msg := M, errors := e, df0 := d, msgBits := n
          rsp := okAnswer (d.toNat + (if n = 112 then 32 else 0) + 256 * e.toNat) } ∧
        (∀ k < 112,
          (repeated k → symbolAt B k = symbolAt B (k - 1)) ∧
          (¬ repeated k → a k = b k → symbolAt B k = .ambiguous) ∧
          (¬ repeated k → a k > b k → symbolAt B k = .one) ∧
          (¬ repeated k → a k < b k → symbolAt B k = .zero)) ∧
        e.toNat = (((List.range 56).filter fun k => decide (¬ repeated k ∧ a k = b k)).length) ∧
        (∀ y < 14, msgByte M y = BitVec.ofNat 8
          (((((((symbolNat (symbolAt B (8 * y)) <<< 7 ||| symbolNat (symbolAt B (8 * y + 1)) <<< 6)
            ||| symbolNat (symbolAt B (8 * y + 2)) <<< 5) ||| symbolNat (symbolAt B (8 * y + 3)) <<< 4)
            ||| symbolNat (symbolAt B (8 * y + 4)) <<< 3) ||| symbolNat (symbolAt B (8 * y + 5)) <<< 2)
            ||| symbolNat (symbolAt B (8 * y + 6)) <<< 1) ||| symbolNat (symbolAt B (8 * y + 7)))) ∧
        d.toNat = (msgByte M 0).toNat / 8 ∧
        n.toNat = if d.toNat ∈ [0, 4, 5, 16, 17, 20, 21, 24] then 112 else 56) ∧
    (¬ j.toNat + 239 < s.magLen.toNat → exec (.slice j) s = .next { s with rsp := errorAnswer .range }) ∧
    encode (.slice j) = 0x40#8 ++ 0#32 ++ j

/-- R163, R166, which the spec derives: the ambiguous symbol is created at bit 0 only, reaches bit `k` only through bits
that all repeat, and ERRORS after a slice is 1 exactly when the first two samples are equal. -/
def Obligations.AmbiguityStartsAtTheFirstBit : Prop :=
  ∀ (mag : Memory 16) (j : Nat),
    (∀ k < 112, (sliceBits mag j).1.getD k .zero = .ambiguous →
      (mag.read (j + 16)).toNat = (mag.read (j + 17)).toNat ∧
      ∀ k', 0 < k' → k' ≤ k →
        absDiff (mag.read (j + 16 + 2 * k')).toNat (mag.read (j + 17 + 2 * k')).toNat < 256) ∧
    (sliceBits mag j).2 = (if mag.read (j + 16) = mag.read (j + 17) then 1 else 0)

/-- R168, R169: QUAL answers the mean of the per-bit differences, floor-divided by the number of bits, and whether it
reaches 2550; E_BITS first, then E_RANGE. -/
def Obligations.QualMeasuresTheMeanDifference : Prop :=
  ∀ (s : State) (j : BitVec 24) (bits : BitVec 8), s.fatal = false →
    let delta := fun k => absDiff (s.mag.read (j.toNat + 16 + 2 * k)).toNat (s.mag.read (j.toNat + 17 + 2 * k)).toNat
    let q := ((List.range bits.toNat).map delta).sum / bits.toNat
    let inRange := j.toNat + 15 + 2 * bits.toNat < s.magLen.toNat
    (bits.toNat = 56 ∨ bits.toNat = 112 → q ≤ 65535) ∧
    ((bits.toNat = 56 ∨ bits.toNat = 112) ∧ inRange ∧ 2550 ≤ q →
      exec (.qual j bits) s = .next { s with rsp := okAnswer (q + 65536) }) ∧
    ((bits.toNat = 56 ∨ bits.toNat = 112) ∧ inRange ∧ q < 2550 →
      exec (.qual j bits) s = .next { s with rsp := okAnswer q }) ∧
    (¬ (bits.toNat = 56 ∨ bits.toNat = 112) → exec (.qual j bits) s = .next { s with rsp := errorAnswer .bits }) ∧
    ((bits.toNat = 56 ∨ bits.toNat = 112) ∧ ¬ inRange →
      exec (.qual j bits) s = .next { s with rsp := errorAnswer .range }) ∧
    encode (.qual j bits) = 0x41#8 ++ 0#24 ++ bits ++ j

/-! ### Checksum and corrector -/

/-- R182, R183: CRCTAB answers the entries that the generation rule makes, zero from 88 to 111, E_RANGE past 111. -/
def Obligations.CrctabFollowsTheGenerator : Prop :=
  ∃ tab : Nat → Nat,
    tab 87 = 0xFFF409 ∧
    (∀ k < 87, tab k = if tab (k + 1) * 2 < 2 ^ 24 then tab (k + 1) * 2 else (tab (k + 1) * 2) ^^^ 0x1FFF409) ∧
    (∀ k, 88 ≤ k → tab k = 0) ∧
    ∀ (s : State) (k : BitVec 8), s.fatal = false →
      (k.toNat ≤ 111 → exec (.crctab k) s = .next { s with rsp := okAnswer (tab k.toNat) }) ∧
      (111 < k.toNat → exec (.crctab k) s = .next { s with rsp := errorAnswer .range }) ∧
      encode (.crctab k) = 0x55#8 ++ 0#48 ++ k

/-- R184, R185: CRC answers the exclusive-or of the table entries of the set bits and the last three bytes, big-endian;
the message is valid when they are equal; E_BITS when `bits` is neither 56 nor 112. -/
def Obligations.CrcAnswersComputedAndReceived : Prop :=
  ∀ (s : State) (bits : BitVec 8), s.fatal = false →
    (bits.toNat = 56 ∨ bits.toNat = 112 → ∃ computed received : BitVec 24,
      exec (.crc bits) s = .next { s with rsp := okAnswer (computed.toNat + 2 ^ 24 * received.toNat) } ∧
      computed = (List.range bits.toNat).foldl
        (fun c k => if s.msg.getMsbD k then c ^^^ crctabEntry (k + (if bits.toNat = 112 then 0 else 56)) else c) 0 ∧
      received.toNat = (msgByte s.msg (bits.toNat / 8 - 3)).toNat * 65536 +
        (msgByte s.msg (bits.toNat / 8 - 2)).toNat * 256 + (msgByte s.msg (bits.toNat / 8 - 1)).toNat ∧
      (validMsg s.msg bits.toNat = true ↔ computed = received)) ∧
    (¬ (bits.toNat = 56 ∨ bits.toNat = 112) → exec (.crc bits) s = .next { s with rsp := errorAnswer .bits }) ∧
    encode (.crc bits) = 0x50#8 ++ 0#48 ++ bits

/-- R186 (a), which the spec derives: flipping one bit changes the checksum by exactly the table's entry. -/
def Obligations.ChecksumIsLinear : Prop :=
  ∀ (M : Msg) (k : Nat),
    (k < 112 → checksum (flipBit M k) 112 = checksum M 112 ^^^ crctabEntry k) ∧
    (k < 56 → checksum (flipBit M k) 56 = checksum M 56 ^^^ crctabEntry (k + 56))

/-- R186 (b), which the spec derives: a frame whose last three bytes are the checksum over the bytes before them is
valid. -/
def Obligations.ChecksumRoundTrip : Prop :=
  (∀ head : BitVec 88, validMsg (head ++ checksum (head ++ (0 : BitVec 24)) 112) 112 = true) ∧
  (∀ (head : BitVec 32) (tail : BitVec 56),
    validMsg (head ++ checksum (head ++ (0 : BitVec 24) ++ tail) 56 ++ tail) 56 = true)

/-- R187: FIX1 flips the lowest bit position that makes the message valid, or finds none and changes nothing; E_BITS when
`bits` is neither 56 nor 112. -/
def Obligations.Fix1TakesTheLowestPosition : Prop :=
  ∀ (s : State) (bits : BitVec 8), s.fatal = false →
    (bits.toNat = 56 ∨ bits.toNat = 112 →
      (∀ p < bits.toNat, validMsg (flipBit s.msg p) bits.toNat = true →
        (∀ p' < p, validMsg (flipBit s.msg p') bits.toNat = false) →
        exec (.fix1 bits) s = .next { s with msg := flipBit s.msg p, rsp := okAnswer (p + 65536) }) ∧
      ((∀ p < bits.toNat, validMsg (flipBit s.msg p) bits.toNat = false) →
        exec (.fix1 bits) s = .next { s with rsp := okAnswer 0 })) ∧
    (¬ (bits.toNat = 56 ∨ bits.toNat = 112) → exec (.fix1 bits) s = .next { s with rsp := errorAnswer .bits }) ∧
    encode (.fix1 bits) = 0x51#8 ++ 0#48 ++ bits

/-- The corner cases of R187, which the spec derives from R182: a valid message with one bit flipped is restored, at
every position, and a valid message is not found correctable. -/
def Obligations.Fix1RestoresEverySingleFlip : Prop :=
  ∀ (s : State) (M : Msg) (bits : BitVec 8) (p : Nat), s.fatal = false →
    (bits.toNat = 56 ∨ bits.toNat = 112) → validMsg M bits.toNat = true → p < bits.toNat →
    exec (.fix1 bits) { s with msg := flipBit M p } = .next { s with msg := M, rsp := okAnswer (p + 65536) } ∧
    exec (.fix1 bits) { s with msg := M } = .next { s with msg := M, rsp := okAnswer 0 }

/-- R188, R189: FIX2 flips the lexicographically smallest pair that makes the message valid, or finds none and changes
nothing; E_BITS when `bits` is neither 56 nor 112. -/
def Obligations.Fix2TakesTheSmallestPair : Prop :=
  ∀ (s : State) (bits : BitVec 8), s.fatal = false →
    (bits.toNat = 56 ∨ bits.toNat = 112 →
      (∀ p r, p < r → r < bits.toNat → validMsg (flipBit (flipBit s.msg p) r) bits.toNat = true →
        (∀ p' r', p' < r' → r' < bits.toNat → (p' < p ∨ (p' = p ∧ r' < r)) →
          validMsg (flipBit (flipBit s.msg p') r') bits.toNat = false) →
        exec (.fix2 bits) s =
          .next { s with msg := flipBit (flipBit s.msg p) r, rsp := okAnswer (p + 256 * r + 65536) }) ∧
      ((∀ p r, p < r → r < bits.toNat → validMsg (flipBit (flipBit s.msg p) r) bits.toNat = false) →
        exec (.fix2 bits) s = .next { s with rsp := okAnswer 0 })) ∧
    (¬ (bits.toNat = 56 ∨ bits.toNat = 112) → exec (.fix2 bits) s = .next { s with rsp := errorAnswer .bits }) ∧
    encode (.fix2 bits) = 0x52#8 ++ 0#48 ++ bits

/-- The last sentence of R188, which the spec derives from R182: a message two flips from a valid one is restored by FIX2,
by that pair. -/
def Obligations.Fix2RestoresEveryDoubleFlip : Prop :=
  ∀ (s : State) (M : Msg) (bits : BitVec 8) (p r : Nat), s.fatal = false →
    (bits.toNat = 56 ∨ bits.toNat = 112) → validMsg M bits.toNat = true → p < r → r < bits.toNat →
    exec (.fix2 bits) { s with msg := flipBit (flipBit M p) r } =
      .next { s with msg := M, rsp := okAnswer (p + 256 * r + 65536) }

/-- R190, R191: APCHK answers received exclusive-or computed and whether the cache holds that address, not too old; the
message is not changed, and only the entry looked up can be evicted; E_BITS when `bits` is neither 56 nor 112. -/
def Obligations.ApchkLooksUpTheUnmaskedAddress : Prop :=
  ∀ (s : State) (bits : BitVec 8), s.fatal = false →
    let cand := rxCrc s.msg bits.toNat ^^^ checksum s.msg bits.toNat
    (bits.toNat = 56 ∨ bits.toNat = 112 →
      (lookupAt s.cache cand.toNat = none →
        exec (.apchk bits) s = .next { s with rsp := okAnswer cand.toNat }) ∧
      (∀ seen, lookupAt s.cache cand.toNat = some seen → s.ts.toNat - seen.toNat ≤ 60000000 →
        exec (.apchk bits) s = .next { s with rsp := okAnswer (cand.toNat + 2 ^ 24) }) ∧
      (∀ seen, lookupAt s.cache cand.toNat = some seen → 60000000 < s.ts.toNat - seen.toNat → ∃ c,
        exec (.apchk bits) s = .next { s with cache := c, rsp := okAnswer cand.toNat } ∧
        ∀ a, lookupAt c a = if a = cand.toNat then none else lookupAt s.cache a)) ∧
    (¬ (bits.toNat = 56 ∨ bits.toNat = 112) → exec (.apchk bits) s = .next { s with rsp := errorAnswer .bits }) ∧
    encode (.apchk bits) = 0x53#8 ++ 0#48 ++ bits

/-- R192, R193, R194: the whole validation flow, path by path, with what it writes and answers. -/
def Obligations.ValidateFollowsTheFlow : Prop :=
  encode .validate = 0x5400000000000000 ∧ ∀ s : State, s.fatal = false →
    let d := (msgByte s.msg 0).toNat / 8
    let n := if d ∈ [0, 4, 5, 16, 17, 20, 21, 24] then 112 else 56
    let addr := fun M : Msg => (msgByte M 1).toNat * 65536 + (msgByte M 2).toNat * 256 + (msgByte M 3).toNat
    let cand := rxCrc s.msg n ^^^ checksum s.msg n
    ∃ (M : Msg) (c : Cache) (valid : Bool) (path : Nat),
      exec .validate s = .next { s with
        df0 := BitVec.ofNat 5 d, msgBits := BitVec.ofNat 7 n, msg := M, cache := c
        rsp := okAnswer (valid.toNat + 2 * path + 16 * d + (if n = 112 then 512 else 0)) } ∧
      (validMsg s.msg n = true → valid = true ∧ path = 1 ∧ M = s.msg) ∧
      (validMsg s.msg n = false → d = 11 ∨ d = 17 →
        (∀ p, fixOne s.msg n = some p → valid = true ∧ path = 2 ∧ M = flipBit s.msg p) ∧
        (∀ p r, fixOne s.msg n = none → fixTwo s.msg n = some (p, r) →
          valid = true ∧ path = 3 ∧ M = flipBit (flipBit s.msg p) r) ∧
        (fixOne s.msg n = none → fixTwo s.msg n = none →
          valid = false ∧ path = 0 ∧ M = s.msg ∧ c = s.cache)) ∧
      (validMsg s.msg n = false → d ∈ [0, 4, 5, 16, 20, 21, 24] →
        M = s.msg ∧ valid = cacheHas s.cache cand s.ts ∧ path = (if valid then 4 else 0) ∧
        c = cacheAfterLookup s.cache cand s.ts) ∧
      (validMsg s.msg n = false → ¬ d ∈ [0, 4, 5, 11, 16, 17, 20, 21, 24] →
        valid = false ∧ path = 0 ∧ M = s.msg) ∧
      (valid = true → d = 11 ∨ d = 17 →
        ∀ a, lookupAt c a = if a = addr M then some s.ts else lookupAt s.cache a) ∧
      (¬ (d = 11 ∨ d = 17) → validMsg s.msg n = true ∨ ¬ d ∈ [0, 4, 5, 16, 20, 21, 24] → c = s.cache)

/-! ### Cache -/

/-- R211, R213, R214: the three cases of a lookup; only the stale entry looked up is evicted, and CACHE_COUNT goes down
by one. -/
def Obligations.CcontLooksUpAndEvicts : Prop :=
  ∀ (s : State) (addr : BitVec 24), s.fatal = false → rising s.cache →
    (lookupAt s.cache addr.toNat = none → exec (.ccont addr) s = .next { s with rsp := okAnswer 0 }) ∧
    (∀ seen, lookupAt s.cache addr.toNat = some seen → s.ts.toNat - seen.toNat ≤ 60000000 →
      exec (.ccont addr) s = .next { s with rsp := okAnswer 1 }) ∧
    (∀ seen, lookupAt s.cache addr.toNat = some seen → 60000000 < s.ts.toNat - seen.toNat → ∃ c,
      exec (.ccont addr) s = .next { s with cache := c, rsp := okAnswer 0 } ∧
      c.length + 1 = s.cache.length ∧
      ∀ a, lookupAt c a = if a = addr.toNat then none else lookupAt s.cache a) ∧
    encode (.ccont addr) = 0x60#8 ++ 0#32 ++ addr

/-- R212, R215: an insertion sets or overwrites the timestamp of its address and no other entry; CACHE_COUNT goes up by one
if the entry was invalid. -/
def Obligations.CinsSetsTheTimestamp : Prop :=
  ∀ (s : State) (addr : BitVec 24), s.fatal = false → rising s.cache → ∃ c,
    exec (.cins addr) s = .next { s with cache := c, rsp := okAnswer 0 } ∧
    (∀ a, lookupAt c a = if a = addr.toNat then some s.ts else lookupAt s.cache a) ∧
    (lookupAt s.cache addr.toNat = none → c.length = s.cache.length + 1) ∧
    (lookupAt s.cache addr.toNat ≠ none → c.length = s.cache.length) ∧
    encode (.cins addr) = 0x61#8 ++ 0#32 ++ addr

/-- R216 (a), (b), (c), which the spec derives: inserted at T, an address is present up to T + 60 s, absent one tick later, and
then absent whatever the time, until it is inserted again. -/
def Obligations.CacheSixtySecondBoundary : Prop :=
  ∀ (s : State) (addr : BitVec 24) (now later : BitVec 56), s.fatal = false → s.ts.toNat ≤ now.toNat →
    ∃ s1, exec (.cins addr) s = .next s1 ∧
      (now.toNat ≤ s.ts.toNat + 60000000 →
        exec (.ccont addr) { s1 with ts := now } = .next { s1 with ts := now, rsp := okAnswer 1 }) ∧
      (s.ts.toNat + 60000000 < now.toNat →
        ∃ s2, exec (.ccont addr) { s1 with ts := now } = .next s2 ∧ s2.rsp = okAnswer 0 ∧
          exec (.ccont addr) { s2 with ts := later } = .next { s2 with ts := later, rsp := okAnswer 0 })

/-! ### The scan sequencer -/

/-- R233: every row of the transition table that a candidate can reach. Only the Accepted rows read MSGBITS, which is then
56 or 112. -/
def Obligations.TransitionsOfJAndMode : Prop :=
  ∀ s : State, s.j.toNat + 240 < s.magLen.toNat →
    let after := fun o => ((applyTransition o s).j.toNat, (applyTransition o s).mode)
    let past := s.j.toNat + 2 * (8 + s.msgBits.toNat) + 1
    (s.mode = .scanningNormal →
      after .noPreamble = (s.j.toNat + 1, .scanningNormal) ∧ after .weak = (s.j.toNat + 1, .scanningNormal) ∧
      after .failed = (s.j.toNat, .retryWithPhaseCorrection) ∧
      (s.msgBits = 56 ∨ s.msgBits = 112 → after .accepted = (past, .scanningNormal))) ∧
    (s.mode = .retryWithPhaseCorrection →
      after .weak = (s.j.toNat + 1, .scanningNormal) ∧ after .failed = (s.j.toNat + 1, .scanningNormal) ∧
      (s.msgBits = 56 ∨ s.msgBits = 112 → after .accepted = (past, .scanningNormal)))

/-- R226, R228, R230, R231, R232: a candidate of the normal mode ends in exactly one of the four outcomes, each in exactly its
own case: NoPreamble when the preamble test fails; else the slice at J is judged, its quality measured on the same samples
of MAG. HIGH is written when the shape test passes. The next state is said whole: MAG, AUX, J and MODE are as before,
MSG and CACHE are the slice's and the old ones, or those that validation leaves, and OUTQ grows, by the record that
describes the message, exactly when the candidate is Accepted. -/
def Obligations.CandidateOutcomesOfTheNormalMode : Prop :=
  ∀ s : State, s.mode = .scanningNormal →
    let v := preamble s.mag s.j.toNat
    let seen := { s with high := if v.shape then v.high else s.high }
    let sliced := latchedSlice s.mag s.j.toNat seen
    let strong := 2550 ≤ quality s.mag s.j.toNat sliced.msgBits.toNat
    ((candidate s).2 = .noPreamble ↔ v.pass = false) ∧
    (v.pass = false → (candidate s).1 = seen) ∧
    (v.pass = true → Judged sliced strong (candidate s).2 (candidate s).1)

/-- R229, R230, R231, R232: a retry candidate slices the data region after phase correction, which is applied when J is not 0 and the
phase is not 0, and is then judged as in the normal mode, with the quality measured on the uncorrected samples; weak, failed
and accepted each occur in exactly their own case, and NoPreamble never. Every sample of MAG is as it was, AUX holds
the data region of the position, and the rest of the next state is said whole: HIGH, J and MODE are as before. -/
def Obligations.RetryRestoresTheDataRegion : Prop :=
  ∀ s : State, s.mode = .retryWithPhaseCorrection →
    let j := s.j.toNat
    let t := (candidate s).1
    let corrected := if j ≠ 0 ∧ phase s.mag j ≠ 0 then correct s.mag j else s.mag
    let sliced := latchedSlice corrected j { s with mag := t.mag, aux := t.aux }
    let strong := 2550 ≤ quality s.mag j sliced.msgBits.toNat
    Judged sliced strong (candidate s).2 t ∧ (candidate s).2 ≠ .noPreamble ∧
    (∀ a, t.mag.read a = s.mag.read a) ∧
    (∀ x, t.aux.read x = if x < 224 then s.mag.read (j + 16 + x) else s.aux.read x)

/-- R235, R237: SCAN completes when OUTQ has room for the worst case, appends the records it counts, never more than the
worst case, and answers the final J and the count; without room it raises E_QFULL. What it may change is what is
written here. -/
def Obligations.ScanCompletesWithinItsBound : Prop :=
  ∀ s : State, s.fatal = false →
    let worst := if s.magLen.toNat ≤ 240 then 0 else (s.magLen.toNat - 240 + 128) / 129
    (s.outq.length + worst ≤ 4096 → ∃ (t : State) (new : List OutRecord),
      exec .scan s = .next t ∧ new.length ≤ worst ∧
      t = { s with
        mag := t.mag, aux := t.aux, bits := t.bits, msg := t.msg, errors := t.errors, df0 := t.df0,
        msgBits := t.msgBits, high := t.high, j := t.j, mode := t.mode, cache := t.cache,
        outq := s.outq ++ new, rsp := okAnswer (new.length + 2 ^ 24 * t.j.toNat) }) ∧
    (4096 < s.outq.length + worst → s.outq.length ≤ 4096 →
      exec .scan s = .next { s with rsp := errorAnswer .qFull })

/-- R227, R234 (a), (b), which the spec derives from the transitions: a scan runs to completion. MODE is ScanningNormal, the loop
condition is false, and J is 0 when there is no position and never greater than MAGLEN. -/
def Obligations.ScanRunsToCompletion : Prop :=
  ∀ s : State, (runScan s).1.mode = .scanningNormal ∧ (runScan s).1.magLen = s.magLen ∧
    ¬ ((runScan s).1.j.toNat + 240 < s.magLen.toNat) ∧
    (s.magLen.toNat ≤ 240 → runScan s = ({ s with j := 0, mode := .scanningNormal }, 0)) ∧
    (240 < s.magLen.toNat → s.magLen.toNat - 240 ≤ (runScan s).1.j.toNat ∧ (runScan s).1.j.toNat ≤ s.magLen.toNat)

/-- R73, R229, R234 (c): a scan leaves MAG exactly as it was. -/
def Obligations.ScanRestoresTheVector : Prop :=
  ∀ s t : State, s.mag.wf 131072 → s.magLen.toNat ≤ 131072 → exec .scan s = .next t → t.mag = s.mag

/-- R236: DEMOD checks the chunk length, then the room, and then is MAGVEC followed by SCAN. -/
def Obligations.DemodIsMagvecThenScan : Prop :=
  encode .demod = 0x7000000000000000 ∧ ∀ s : State, s.fatal = false →
    let bad := s.chunkLen.toNat = 0 ∨ s.chunkLen.toNat % 2 = 1
    let worst := if s.chunkLen.toNat / 2 ≤ 240 then 0 else (s.chunkLen.toNat / 2 - 240 + 128) / 129
    (bad → exec .demod s = .next { s with fatal := true, fatalCause := 0x03, rsp := errorAnswer .chunkLen }) ∧
    (¬ bad → s.outq.length + worst ≤ 4096 → ∃ m t,
      exec .magvec s = .next m ∧ exec .scan m = .next t ∧ exec .demod s = .next t ∧ t.rsp ≠ errorAnswer .qFull) ∧
    (¬ bad → 4096 < s.outq.length + worst → s.outq.length ≤ 4096 →
      exec .demod s = .next { s with rsp := errorAnswer .qFull })

/-- The corner case of R235, and R142 (b): a flat vector is scanned to its end, yields no message, and leaves the rest of the
state as it was. -/
def Obligations.FlatVectorYieldsNothing : Prop :=
  ∀ (s : State) (level : BitVec 16), s.fatal = false → 240 < s.magLen.toNat → s.magLen.toNat ≤ 131072 →
    s.outq = [] → (∀ a < s.magLen.toNat, s.mag.read a = level) →
    exec .scan s = .next { s with
      j := BitVec.ofNat 24 (s.magLen.toNat - 240), mode := .scanningNormal
      rsp := okAnswer (2 ^ 24 * (s.magLen.toNat - 240)) }

/-- R232, R39: every record a scan appends carries TS, the format of its own first byte, the address of its bytes 1 to 3 when
present and 0 otherwise, and zeros past a short message. -/
def Obligations.RecordsDescribeTheirBytes : Prop :=
  ∀ s t : State, s.fatal = false → exec .scan s = .next t → ∀ r ∈ t.outq, r ∈ s.outq ∨
    (r.ts = s.ts ∧ r.df.toNat = (msgByte r.bytes 0).toNat / 8 ∧
      r.addr.toNat = (if r.av then (msgByte r.bytes 1).toNat * 65536 + (msgByte r.bytes 2).toNat * 256 +
        (msgByte r.bytes 3).toNat else 0) ∧
      (r.long = false → ∀ n, 7 ≤ n → n < 14 → msgByte r.bytes n = 0))

/-- The end-to-end property (95_test_vectors.md S9, from R227 to R236) for SCAN: an ideal transmission of any valid DF 17 frame,
at any place of an otherwise silent vector, at any level that the quality gate accepts, is decoded exactly once, with its
address, and the address is then in the cache. -/
def Obligations.IdealFrameIsDecodedOnce : Prop :=
  ∀ (s : State) (M : Msg) (H : BitVec 16) (x : Nat),
    s.fatal = false → s.outq = [] → s.magLen.toNat ≤ 131072 → x + 240 < s.magLen.toNat → 2550 ≤ H.toNat →
    (msgByte M 0).toNat / 8 = 17 → validMsg M 112 = true →
    (∀ a, s.mag.read a =
      if a < x ∨ x + 240 ≤ a then 0
      else if a < x + 16 then (if a = x ∨ a = x + 2 ∨ a = x + 7 ∨ a = x + 9 then H else 0)
      else if M.getMsbD ((a - x - 16) / 2) = decide ((a - x) % 2 = 0) then H else 0) →
    ∃ t, exec .scan s = .next t ∧
      t.outq = [{ bytes := M, long := true, df := 17, av := true, addr := bytes24 M 1, ts := s.ts }] ∧
      lookupAt t.cache (bytes24 M 1).toNat = some s.ts ∧
      t.j.toNat = max (x + 241) (s.magLen.toNat - 240) ∧
      t.rsp = okAnswer (1 + 2 ^ 24 * t.j.toNat)

/-- R24, whose last sentences the spec derives: AUX cannot be observed. Two states that differ only in AUX give, under every command, next states that differ at most
in AUX, and so the same responses. -/
def Obligations.AuxIsUnobservable : Prop :=
  ∀ (i : Instr) (s t : State) (aux : Memory 16), exec i s = .next t →
    ∃ aux', exec i { s with aux := aux } = .next { t with aux := aux' }
end

