-- ==== Sys2Proof/Machine/Configured.lean ====
section
/-! DEFINITION. The block at any parameters (00_scope.md R8: a model takes the decided values as arguments): the same
meanings as `exec`, each given the parameters it depends on. `exec` and `step` are the block at the defaults
(Laws/Config.lean). Log entry 1. -/

namespace Sys2Proof.Machine

/-- The meaning of a command in a block with these parameters. -/
def execWith (cfg : Parameters) (i : Instr) (s : State) : Result :=
  match i with
  | .nop => execNop s
  | .sreset => execSreset s
  | .rdreg k => execRdreg k s cfg
  | .setptr a => execSetptr a s
  | .wrb b => execWrb b s cfg
  | .setlen n => execSetlen n s cfg
  | .wrm h => execWrm h s cfg
  | .setmlen n => execSetmlen n s cfg
  | .rdmag => execRdmag s
  | .setts t => execSetts t s cfg
  | .ldm0 m => execLdm0 m s
  | .ldm1 m => execLdm1 m s
  | .rdm0 => execRdm0 s
  | .rdm1 => execRdm1 s
  | .rdbit k => execRdbit k s
  | .pop => execPop s
  | .rdo0 => execRdo0 s
  | .rdo1 => execRdo1 s
  | .rdots => execRdots s
  | .rdb => execRdb s
  | .lutrd di dq => execLutrd di dq s
  | .magvec => execMagvec s
  | .prechk j => execPrechk j s
  | .phdet j => execPhdet j s
  | .phcor j => execPhcor j s
  | .slice j => execSlice j s cfg
  | .qual j bits => execQual j bits s cfg
  | .crc bits => execCrc bits s cfg
  | .fix1 bits => execFix1 bits s cfg
  | .fix2 bits => execFix2 bits s cfg
  | .apchk bits => execApchk bits s cfg
  | .validate => execValidate s cfg
  | .crctab k => execCrctab k s cfg
  | .ccont addr => execCcont addr s cfg
  | .cins addr => execCins addr s
  | .demod => execDemod s cfg
  | .scan => execScan s cfg

/-- One step of a block with these parameters. -/
def stepWith (cfg : Parameters) (s : State) : Result := stepBy (execWith cfg) s

end Sys2Proof.Machine
end

