-- ==== Sys2Proof/Laws/Config.lean ====
section
/-! SUPPORT. The parameters at their defaults (00_scope.md R8), and that `exec` and `step` run the block at them. -/

namespace Sys2Proof

@[simp] theorem Config.defaults_chunkCap : Config.defaults.chunkCap = 262144 := rfl
@[simp] theorem Config.defaults_magCap : Config.defaults.magCap = 131072 := rfl
@[simp] theorem Config.defaults_outqCap : Config.defaults.outqCap = 4096 := rfl
@[simp] theorem Config.defaults_ticksPerSecond : Config.defaults.ticksPerSecond = 1000000 := rfl
@[simp] theorem Config.defaults_ttlTicks : Config.defaults.ttlTicks = 60000000 := rfl
@[simp] theorem Config.defaults_wTs : Config.defaults.wTs = 56 := rfl
@[simp] theorem Config.defaults_version : Config.defaults.version = 7 := rfl
@[simp] theorem Config.defaults_longDfSet : Config.defaults.longDfSet = [0, 4, 5, 16, 17, 20, 21, 24] := rfl
@[simp] theorem Config.defaults_crctab : Config.defaults.crctab = Config.crctab := rfl
@[simp] theorem Config.defaults_qdiv (bits : Nat) : Config.defaults.qdiv bits = bits := rfl

/-- At the default width a timestamp is the whole operand. -/
@[simp] theorem Config.defaults_tick (t : BitVec 56) : Config.defaults.tick t = t := by
  rw [Parameters.tick, Config.defaults_wTs, Nat.mod_eq_of_lt t.isLt, BitVec.ofNat_toNat, BitVec.setWidth_eq]

/-- The source's lengths follow from one another as R8 says: `PREAMBLE_US * SAMPLES_PER_US`, `2*(8+112)`, and AUX holds the
frame without its preamble (R24). -/
theorem Config.lengths_agree :
    Config.preambleSamples = Config.preambleUs * Config.samplesPerUs ∧
      Config.fullLen = Config.samplesPerUs * (Config.preambleUs + Config.longBits) ∧
      Config.auxCap + Config.preambleSamples = Config.fullLen := by decide

/-- The defaults meet the constraints of R8. -/
theorem Config.defaults_legal : Config.defaults.legal := by decide

namespace Machine

/-- `exec` is the block at the default parameters. -/
theorem execWith_defaults : execWith Config.defaults = exec := by
  funext i s; cases i <;> rfl

/-- `step` is the block at the default parameters. -/
theorem stepWith_defaults : stepWith Config.defaults = step := by
  funext s; rw [stepWith, execWith_defaults, step]

end Machine

end Sys2Proof
end

