-- ==== Sys2Proof/Laws/Memory.lean ====
section
/-! SUPPORT. The laws of the index spaces and of the cache's list: what a read gives after a write, in every state,
and that every operation keeps the canonical form. -/

namespace Sys2Proof.Machine

section Pairs
variable {α : Type} {m : List (Nat × α)}

theorem lookupAt_insertAt (a b : Nat) (v : α) :
    lookupAt (insertAt m a v) b = if b = a then some v else lookupAt m b := by
  induction m with
  | nil => simp [insertAt, lookupAt, eq_comm]
  | cons e rest ih =>
    obtain ⟨k, w⟩ := e
    simp only [insertAt]
    split
    · simp [lookupAt, eq_comm]
    · split
      · next h =>
        subst h
        by_cases hb : a = b <;> simp [lookupAt, hb, eq_comm]
      · next h =>
        simp only [lookupAt, ih]
        by_cases hb : b = a
        · subst hb; simp [Ne.symm h]
        · simp [hb]

theorem lookupAt_filter (p : Nat → Bool) (a : Nat) :
    lookupAt (m.filter fun e => p e.1) a = if p a then lookupAt m a else none := by
  induction m with
  | nil => simp [lookupAt]
  | cons e rest ih =>
    obtain ⟨k, w⟩ := e
    by_cases hk : p k
    · simp only [List.filter_cons, hk, if_true, lookupAt, ih]
      split
      · subst_vars; simp [hk]
      · rfl
    · simp only [List.filter_cons, hk, lookupAt, Bool.false_eq_true, if_false, ih]
      by_cases ha : p a
      · have hne : k ≠ a := by rintro rfl; exact hk ha
        simp [ha, hne]
      · simp [ha]

theorem lookupAt_eraseAt (a b : Nat) :
    lookupAt (eraseAt m a) b = if b = a then none else lookupAt m b := by
  rw [eraseAt, lookupAt_filter (fun k => k != a)]
  by_cases h : b = a <;> simp [h]

theorem lookupAt_append (n : List (Nat × α)) (a : Nat) :
    lookupAt (m ++ n) a = (lookupAt m a).or (lookupAt n a) := by
  induction m with
  | nil => simp [lookupAt]
  | cons e rest ih => simp only [List.cons_append, lookupAt]; split <;> simp [ih]

theorem lookupAt_eq_some_of_mem (h : rising m) {e : Nat × α} (he : e ∈ m) : lookupAt m e.1 = some e.2 := by
  induction m with
  | nil => cases he
  | cons d rest ih =>
    obtain ⟨k, w⟩ := d
    rcases List.mem_cons.1 he with rfl | he
    · simp [lookupAt]
    · have hlt := (List.pairwise_cons.1 h).1 e he
      simp only [lookupAt]
      rw [if_neg (by simp at hlt; omega)]
      exact ih (List.pairwise_cons.1 h).2 he

theorem mem_of_lookupAt {a : Nat} {v : α} (h : lookupAt m a = some v) : (a, v) ∈ m := by
  induction m with
  | nil => simp [lookupAt] at h
  | cons e rest ih =>
    obtain ⟨k, w⟩ := e
    simp only [lookupAt] at h
    split at h
    · simp_all
    · exact List.mem_cons_of_mem _ (ih h)

theorem mem_insertAt {a : Nat} {v : α} {e : Nat × α} (h : e ∈ insertAt m a v) : e = (a, v) ∨ e ∈ m := by
  induction m with
  | nil => simpa [insertAt] using h
  | cons d rest ih =>
    obtain ⟨k, w⟩ := d
    simp only [insertAt] at h
    split at h
    · simpa using h
    · split at h
      · rcases List.mem_cons.1 h with h | h <;> simp_all
      · rcases List.mem_cons.1 h with rfl | h
        · simp
        · rcases ih h with h | h <;> simp [h]

theorem rising_insertAt (h : rising m) (a : Nat) (v : α) : rising (insertAt m a v) := by
  induction m with
  | nil => simp [insertAt, rising]
  | cons d rest ih =>
    obtain ⟨k, w⟩ := d
    obtain ⟨h1, h2⟩ := List.pairwise_cons.1 h
    simp only [insertAt]
    split
    · refine List.pairwise_cons.2 ⟨?_, h⟩
      intro e he
      rcases List.mem_cons.1 he with rfl | he
      · assumption
      · have := h1 e he; simp at this ⊢; omega
    · split
      · subst_vars; exact List.pairwise_cons.2 ⟨h1, h2⟩
      · refine List.pairwise_cons.2 ⟨?_, ih h2⟩
        intro e he
        rcases mem_insertAt he with rfl | he
        · simp; omega
        · exact h1 e he

theorem rising_eraseAt (h : rising m) (a : Nat) : rising (eraseAt m a) := List.Pairwise.filter _ h

theorem lookupAt_lt {k : Nat} {w : α} (a : Nat) (hr : rising ((k, w) :: m)) (ha : a ≤ k) :
    lookupAt m a = none := by
  cases hl : lookupAt m a with
  | none => rfl
  | some v =>
    have := (List.pairwise_cons.1 hr).1 _ (mem_of_lookupAt hl)
    simp at this; omega

/-- Two lists of strictly rising addresses that list the same values are the same list. -/
theorem rising_ext {n : List (Nat × α)} (hm : rising m) (hn : rising n)
    (h : ∀ a, lookupAt m a = lookupAt n a) : m = n := by
  induction m generalizing n with
  | nil =>
    cases n with
    | nil => rfl
    | cons e rest => have := h e.1; simp [lookupAt] at this
  | cons d rest ih =>
    obtain ⟨k, w⟩ := d
    cases n with
    | nil => have := h k; simp [lookupAt] at this
    | cons e rest' =>
      obtain ⟨k', w'⟩ := e
      have hr := (List.pairwise_cons.1 hm).2
      have hr' := (List.pairwise_cons.1 hn).2
      have hk : k = k' := by
        rcases Nat.lt_trichotomy k k' with hlt | heq | hlt
        · have hk := h k
          simp only [lookupAt, if_true] at hk
          rw [if_neg (by omega), lookupAt_lt k hn (by omega)] at hk
          cases hk
        · exact heq
        · have hk := h k'
          simp only [lookupAt, if_true] at hk
          rw [if_neg (by omega), lookupAt_lt k' hm (by omega)] at hk
          cases hk
      subst hk
      have hw := h k
      simp only [lookupAt, if_true, Option.some.injEq] at hw
      subst hw
      congr 1
      refine ih hr hr' fun a => ?_
      by_cases ha : a ≤ k
      · rw [lookupAt_lt a hm ha, lookupAt_lt a hn ha]
      · have := h a
        simp only [lookupAt] at this
        rwa [if_neg (by omega), if_neg (by omega)] at this

theorem length_insertAt (a : Nat) (v : α) :
    (insertAt m a v).length ≤ m.length + 1 := by
  induction m with
  | nil => simp [insertAt]
  | cons d rest ih =>
    obtain ⟨k, w⟩ := d
    simp only [insertAt]
    split
    · simp
    · split
      · simp
      · simpa using ih

end Pairs

section Spaces
variable {w : Nat} {m : Memory w}

/-- A read after a write of one element: the value written there, and everywhere else what was there before. -/
@[simp] theorem Memory.read_write (a b : Nat) (v : BitVec w) :
    (m.write a v).read b = if b = a then v else m.read b := by
  unfold Memory.write Memory.read
  split
  · rw [lookupAt_eraseAt]; split <;> simp_all
  · rw [lookupAt_insertAt]; split <;> simp_all

theorem lookupAt_listFrom (base : Nat) (vs : List (BitVec w)) (a : Nat) :
    (lookupAt (listFrom base vs) a).getD 0 = if base ≤ a then vs.getD (a - base) 0 else 0 := by
  induction vs generalizing base with
  | nil => simp [listFrom, lookupAt]
  | cons v vs ih =>
    simp only [listFrom]
    rcases Nat.lt_trichotomy a base with h | h | h
    · split
      · rw [ih, if_neg (by omega), if_neg (by omega)]
      · simp only [lookupAt]; rw [if_neg (by omega), ih, if_neg (by omega), if_neg (by omega)]
    · subst h
      split
      · rw [ih, if_neg (by omega)]; simp_all
      · simp [lookupAt]
    · have h1 : a - base = (a - (base + 1)) + 1 := by omega
      split
      · rw [ih, if_pos (by omega), if_pos (by omega), h1, List.getD_cons_succ]
      · simp only [lookupAt]
        rw [if_neg (by omega), ih, if_pos (by omega), if_pos (by omega), h1, List.getD_cons_succ]

theorem mem_listFrom {base : Nat} {vs : List (BitVec w)} {e : Nat × BitVec w} (h : e ∈ listFrom base vs) :
    base ≤ e.1 ∧ e.1 < base + vs.length ∧ e.2 ≠ 0 := by
  induction vs generalizing base with
  | nil => simp [listFrom] at h
  | cons v vs ih =>
    simp only [listFrom] at h
    split at h
    · obtain ⟨h1, h2, h3⟩ := ih h; exact ⟨by omega, by simp; omega, h3⟩
    · rcases List.mem_cons.1 h with rfl | h
      · simp_all
      · obtain ⟨h1, h2, h3⟩ := ih h; exact ⟨by omega, by simp; omega, h3⟩

theorem rising_listFrom (base : Nat) (vs : List (BitVec w)) : rising (listFrom base vs) := by
  induction vs generalizing base with
  | nil => simp [listFrom, rising]
  | cons v vs ih =>
    simp only [listFrom]
    split
    · exact ih _
    · refine List.pairwise_cons.2 ⟨fun e he => ?_, ih _⟩
      have := (mem_listFrom he).1
      simp; omega

theorem lookupAt_listFrom_none {base : Nat} {vs : List (BitVec w)} {a : Nat}
    (h : a < base ∨ base + vs.length ≤ a) : lookupAt (listFrom base vs) a = none := by
  cases hl : lookupAt (listFrom base vs) a with
  | none => rfl
  | some v => have := mem_listFrom (mem_of_lookupAt hl); simp at this; omega

/-- A read after a block write: the block's values inside it, and everywhere else what was there before. -/
@[simp] theorem Memory.read_writeBlock (base : Nat) (vs : List (BitVec w)) (a : Nat) :
    (m.writeBlock base vs).read a =
      if base ≤ a ∧ a < base + vs.length then vs.getD (a - base) 0 else m.read a := by
  unfold Memory.writeBlock Memory.read
  rw [lookupAt_append, lookupAt_append]
  have h1 := lookupAt_filter (m := m) (fun k => decide (k < base)) a
  have h2 := lookupAt_filter (m := m) (fun k => decide (base + vs.length ≤ k)) a
  rw [h1, h2]
  rcases Nat.lt_or_ge a base with h | h
  · have hf : ¬ (base + vs.length ≤ a) := by omega
    have hb : ¬ (base ≤ a) := by omega
    simp [lookupAt_listFrom_none (Or.inl h), h, hf, hb]
  · have hl : ¬ (a < base) := by omega
    rcases Nat.lt_or_ge a (base + vs.length) with h' | h'
    · have hf : ¬ (base + vs.length ≤ a) := by omega
      have hv := lookupAt_listFrom base vs a
      simp only [h, if_true] at hv
      simpa [hl, h, h', hf] using hv
    · have hf : ¬ (a < base + vs.length) := by omega
      simp [lookupAt_listFrom_none (Or.inr h'), hl, h', hf]

@[simp] theorem Memory.length_readBlock (base n : Nat) : (m.readBlock base n).length = n := by
  simp [Memory.readBlock]

theorem Memory.getD_readBlock (base n x : Nat) (h : x < n) : (m.readBlock base n).getD x 0 = m.read (base + x) := by
  simp [Memory.readBlock, List.getD_eq_getElem?_getD, h]

@[simp] theorem Memory.read_nil (a : Nat) : Memory.read ([] : Memory w) a = 0 := rfl

/-- The empty space has the canonical form. -/
theorem Memory.wf_nil (cap : Nat) : Memory.wf cap ([] : Memory w) :=
  ⟨List.Pairwise.nil, fun _ h => nomatch h⟩

theorem Memory.wf_write {cap : Nat} (h : m.wf cap) {a : Nat} (ha : a < cap) (v : BitVec w) :
    (m.write a v).wf cap := by
  unfold Memory.write
  split
  · exact ⟨rising_eraseAt h.1 a, fun e he => h.2 e (List.mem_filter.1 he).1⟩
  · refine ⟨rising_insertAt h.1 a v, fun e he => ?_⟩
    rcases mem_insertAt he with rfl | he
    · exact ⟨ha, by assumption⟩
    · exact h.2 e he

theorem Memory.wf_writeBlock {cap base : Nat} (h : m.wf cap) (vs : List (BitVec w)) (hb : base + vs.length ≤ cap) :
    (m.writeBlock base vs).wf cap := by
  constructor
  · unfold Memory.writeBlock rising
    rw [List.pairwise_append, List.pairwise_append]
    refine ⟨⟨List.Pairwise.filter _ h.1, rising_listFrom _ _, ?_⟩, List.Pairwise.filter _ h.1, ?_⟩
    · intro d hd e he
      have h1 := (mem_listFrom he).1
      have h2 := (List.mem_filter.1 hd).2
      simp at h2
      omega
    · intro d hd e he
      have he := (List.mem_filter.1 he).2
      simp at he
      rcases List.mem_append.1 hd with hd | hd
      · have := (List.mem_filter.1 hd).2
        simp at this
        omega
      · have := (mem_listFrom hd).2.1
        omega
  · intro e he
    unfold Memory.writeBlock at he
    rcases List.mem_append.1 he with he | he
    · rcases List.mem_append.1 he with he | he
      · exact h.2 e (List.mem_filter.1 he).1
      · have := mem_listFrom he
        exact ⟨by omega, this.2.2⟩
    · exact h.2 e (List.mem_filter.1 he).1

theorem lookupAt_of_read (h : ∀ e ∈ m, e.2 ≠ 0) (a : Nat) :
    lookupAt m a = if m.read a = 0 then none else some (m.read a) := by
  unfold Memory.read
  cases hl : lookupAt m a with
  | none => simp
  | some v => have := h _ (mem_of_lookupAt hl); simp at this; simp [this]

/-- Equal reads make equal spaces: the canonical form is unique. -/
theorem Memory.wf_ext {cap cap' : Nat} {n : Memory w} (hm : m.wf cap) (hn : n.wf cap')
    (h : ∀ a, m.read a = n.read a) : m = n := by
  refine rising_ext hm.1 hn.1 fun a => ?_
  rw [lookupAt_of_read (fun e he => (hm.2 e he).2), lookupAt_of_read (fun e he => (hn.2 e he).2), h a]

end Spaces

end Sys2Proof.Machine
end

