-- ==== Sys2Proof/Laws/State.lean ====
section
/-! SUPPORT. One lemma per field of State per update: what each update writes, and that it leaves every other field as it was. -/

namespace Sys2Proof.Machine

section WithResponseFields
variable (st : Status) (v : Word56) (s : State)

@[simp] theorem withResponse_chunk : (withResponse st v s).chunk = s.chunk := rfl
@[simp] theorem withResponse_mag : (withResponse st v s).mag = s.mag := rfl
@[simp] theorem withResponse_aux : (withResponse st v s).aux = s.aux := rfl
@[simp] theorem withResponse_bits : (withResponse st v s).bits = s.bits := rfl
@[simp] theorem withResponse_msg : (withResponse st v s).msg = s.msg := rfl
@[simp] theorem withResponse_errors : (withResponse st v s).errors = s.errors := rfl
@[simp] theorem withResponse_df0 : (withResponse st v s).df0 = s.df0 := rfl
@[simp] theorem withResponse_msgBits : (withResponse st v s).msgBits = s.msgBits := rfl
@[simp] theorem withResponse_high : (withResponse st v s).high = s.high := rfl
@[simp] theorem withResponse_j : (withResponse st v s).j = s.j := rfl
@[simp] theorem withResponse_mode : (withResponse st v s).mode = s.mode := rfl
@[simp] theorem withResponse_ptr : (withResponse st v s).ptr = s.ptr := rfl
@[simp] theorem withResponse_chunkLen : (withResponse st v s).chunkLen = s.chunkLen := rfl
@[simp] theorem withResponse_magLen : (withResponse st v s).magLen = s.magLen := rfl
@[simp] theorem withResponse_ts : (withResponse st v s).ts = s.ts := rfl
@[simp] theorem withResponse_cache : (withResponse st v s).cache = s.cache := rfl
@[simp] theorem withResponse_outq : (withResponse st v s).outq = s.outq := rfl
@[simp] theorem withResponse_out : (withResponse st v s).out = s.out := rfl
@[simp] theorem withResponse_fatal : (withResponse st v s).fatal = s.fatal := rfl
@[simp] theorem withResponse_fatalCause : (withResponse st v s).fatalCause = s.fatalCause := rfl
@[simp] theorem withResponse_inputs : (withResponse st v s).inputs = s.inputs := rfl
@[simp] theorem withResponse_rsp : (withResponse st v s).rsp = some (responseWord st v) := rfl

end WithResponseFields

section SetFatalFields
variable (s : State)

@[simp] theorem setFatal_chunk : (setFatal s).chunk = s.chunk := rfl
@[simp] theorem setFatal_mag : (setFatal s).mag = s.mag := rfl
@[simp] theorem setFatal_aux : (setFatal s).aux = s.aux := rfl
@[simp] theorem setFatal_bits : (setFatal s).bits = s.bits := rfl
@[simp] theorem setFatal_msg : (setFatal s).msg = s.msg := rfl
@[simp] theorem setFatal_errors : (setFatal s).errors = s.errors := rfl
@[simp] theorem setFatal_df0 : (setFatal s).df0 = s.df0 := rfl
@[simp] theorem setFatal_msgBits : (setFatal s).msgBits = s.msgBits := rfl
@[simp] theorem setFatal_high : (setFatal s).high = s.high := rfl
@[simp] theorem setFatal_j : (setFatal s).j = s.j := rfl
@[simp] theorem setFatal_mode : (setFatal s).mode = s.mode := rfl
@[simp] theorem setFatal_ptr : (setFatal s).ptr = s.ptr := rfl
@[simp] theorem setFatal_chunkLen : (setFatal s).chunkLen = s.chunkLen := rfl
@[simp] theorem setFatal_magLen : (setFatal s).magLen = s.magLen := rfl
@[simp] theorem setFatal_ts : (setFatal s).ts = s.ts := rfl
@[simp] theorem setFatal_cache : (setFatal s).cache = s.cache := rfl
@[simp] theorem setFatal_outq : (setFatal s).outq = s.outq := rfl
@[simp] theorem setFatal_out : (setFatal s).out = s.out := rfl
@[simp] theorem setFatal_fatal : (setFatal s).fatal = true := rfl
@[simp] theorem setFatal_fatalCause : (setFatal s).fatalCause = statusCode .chunkLen := rfl
@[simp] theorem setFatal_inputs : (setFatal s).inputs = s.inputs := rfl
@[simp] theorem setFatal_rsp : (setFatal s).rsp = s.rsp := rfl

end SetFatalFields

section TakeInputFields
variable (rest : List HostInput) (s : State)

@[simp] theorem takeInput_chunk : (takeInput rest s).chunk = s.chunk := rfl
@[simp] theorem takeInput_mag : (takeInput rest s).mag = s.mag := rfl
@[simp] theorem takeInput_aux : (takeInput rest s).aux = s.aux := rfl
@[simp] theorem takeInput_bits : (takeInput rest s).bits = s.bits := rfl
@[simp] theorem takeInput_msg : (takeInput rest s).msg = s.msg := rfl
@[simp] theorem takeInput_errors : (takeInput rest s).errors = s.errors := rfl
@[simp] theorem takeInput_df0 : (takeInput rest s).df0 = s.df0 := rfl
@[simp] theorem takeInput_msgBits : (takeInput rest s).msgBits = s.msgBits := rfl
@[simp] theorem takeInput_high : (takeInput rest s).high = s.high := rfl
@[simp] theorem takeInput_j : (takeInput rest s).j = s.j := rfl
@[simp] theorem takeInput_mode : (takeInput rest s).mode = s.mode := rfl
@[simp] theorem takeInput_ptr : (takeInput rest s).ptr = s.ptr := rfl
@[simp] theorem takeInput_chunkLen : (takeInput rest s).chunkLen = s.chunkLen := rfl
@[simp] theorem takeInput_magLen : (takeInput rest s).magLen = s.magLen := rfl
@[simp] theorem takeInput_ts : (takeInput rest s).ts = s.ts := rfl
@[simp] theorem takeInput_cache : (takeInput rest s).cache = s.cache := rfl
@[simp] theorem takeInput_outq : (takeInput rest s).outq = s.outq := rfl
@[simp] theorem takeInput_out : (takeInput rest s).out = s.out := rfl
@[simp] theorem takeInput_fatal : (takeInput rest s).fatal = s.fatal := rfl
@[simp] theorem takeInput_fatalCause : (takeInput rest s).fatalCause = s.fatalCause := rfl
@[simp] theorem takeInput_inputs : (takeInput rest s).inputs = rest := rfl
@[simp] theorem takeInput_rsp : (takeInput rest s).rsp = s.rsp := rfl

end TakeInputFields

section OfferCommandFields
variable (w : PortWord) (s : State)

@[simp] theorem offerCommand_chunk : (offerCommand w s).chunk = s.chunk := rfl
@[simp] theorem offerCommand_mag : (offerCommand w s).mag = s.mag := rfl
@[simp] theorem offerCommand_aux : (offerCommand w s).aux = s.aux := rfl
@[simp] theorem offerCommand_bits : (offerCommand w s).bits = s.bits := rfl
@[simp] theorem offerCommand_msg : (offerCommand w s).msg = s.msg := rfl
@[simp] theorem offerCommand_errors : (offerCommand w s).errors = s.errors := rfl
@[simp] theorem offerCommand_df0 : (offerCommand w s).df0 = s.df0 := rfl
@[simp] theorem offerCommand_msgBits : (offerCommand w s).msgBits = s.msgBits := rfl
@[simp] theorem offerCommand_high : (offerCommand w s).high = s.high := rfl
@[simp] theorem offerCommand_j : (offerCommand w s).j = s.j := rfl
@[simp] theorem offerCommand_mode : (offerCommand w s).mode = s.mode := rfl
@[simp] theorem offerCommand_ptr : (offerCommand w s).ptr = s.ptr := rfl
@[simp] theorem offerCommand_chunkLen : (offerCommand w s).chunkLen = s.chunkLen := rfl
@[simp] theorem offerCommand_magLen : (offerCommand w s).magLen = s.magLen := rfl
@[simp] theorem offerCommand_ts : (offerCommand w s).ts = s.ts := rfl
@[simp] theorem offerCommand_cache : (offerCommand w s).cache = s.cache := rfl
@[simp] theorem offerCommand_outq : (offerCommand w s).outq = s.outq := rfl
@[simp] theorem offerCommand_out : (offerCommand w s).out = s.out := rfl
@[simp] theorem offerCommand_fatal : (offerCommand w s).fatal = s.fatal := rfl
@[simp] theorem offerCommand_fatalCause : (offerCommand w s).fatalCause = s.fatalCause := rfl
@[simp] theorem offerCommand_inputs : (offerCommand w s).inputs = .command w :: s.inputs := rfl
@[simp] theorem offerCommand_rsp : (offerCommand w s).rsp = s.rsp := rfl

end OfferCommandFields

section AdvancePtrFields
variable (s : State)

@[simp] theorem advancePtr_chunk : (advancePtr s).chunk = s.chunk := rfl
@[simp] theorem advancePtr_mag : (advancePtr s).mag = s.mag := rfl
@[simp] theorem advancePtr_aux : (advancePtr s).aux = s.aux := rfl
@[simp] theorem advancePtr_bits : (advancePtr s).bits = s.bits := rfl
@[simp] theorem advancePtr_msg : (advancePtr s).msg = s.msg := rfl
@[simp] theorem advancePtr_errors : (advancePtr s).errors = s.errors := rfl
@[simp] theorem advancePtr_df0 : (advancePtr s).df0 = s.df0 := rfl
@[simp] theorem advancePtr_msgBits : (advancePtr s).msgBits = s.msgBits := rfl
@[simp] theorem advancePtr_high : (advancePtr s).high = s.high := rfl
@[simp] theorem advancePtr_j : (advancePtr s).j = s.j := rfl
@[simp] theorem advancePtr_mode : (advancePtr s).mode = s.mode := rfl
@[simp] theorem advancePtr_ptr : (advancePtr s).ptr = s.ptr + 1 := rfl
@[simp] theorem advancePtr_chunkLen : (advancePtr s).chunkLen = s.chunkLen := rfl
@[simp] theorem advancePtr_magLen : (advancePtr s).magLen = s.magLen := rfl
@[simp] theorem advancePtr_ts : (advancePtr s).ts = s.ts := rfl
@[simp] theorem advancePtr_cache : (advancePtr s).cache = s.cache := rfl
@[simp] theorem advancePtr_outq : (advancePtr s).outq = s.outq := rfl
@[simp] theorem advancePtr_out : (advancePtr s).out = s.out := rfl
@[simp] theorem advancePtr_fatal : (advancePtr s).fatal = s.fatal := rfl
@[simp] theorem advancePtr_fatalCause : (advancePtr s).fatalCause = s.fatalCause := rfl
@[simp] theorem advancePtr_inputs : (advancePtr s).inputs = s.inputs := rfl
@[simp] theorem advancePtr_rsp : (advancePtr s).rsp = s.rsp := rfl

end AdvancePtrFields

section TakeRecordFields
variable (r : OutRecord) (rest : List OutRecord) (s : State)

@[simp] theorem takeRecord_chunk : (takeRecord r rest s).chunk = s.chunk := rfl
@[simp] theorem takeRecord_mag : (takeRecord r rest s).mag = s.mag := rfl
@[simp] theorem takeRecord_aux : (takeRecord r rest s).aux = s.aux := rfl
@[simp] theorem takeRecord_bits : (takeRecord r rest s).bits = s.bits := rfl
@[simp] theorem takeRecord_msg : (takeRecord r rest s).msg = s.msg := rfl
@[simp] theorem takeRecord_errors : (takeRecord r rest s).errors = s.errors := rfl
@[simp] theorem takeRecord_df0 : (takeRecord r rest s).df0 = s.df0 := rfl
@[simp] theorem takeRecord_msgBits : (takeRecord r rest s).msgBits = s.msgBits := rfl
@[simp] theorem takeRecord_high : (takeRecord r rest s).high = s.high := rfl
@[simp] theorem takeRecord_j : (takeRecord r rest s).j = s.j := rfl
@[simp] theorem takeRecord_mode : (takeRecord r rest s).mode = s.mode := rfl
@[simp] theorem takeRecord_ptr : (takeRecord r rest s).ptr = s.ptr := rfl
@[simp] theorem takeRecord_chunkLen : (takeRecord r rest s).chunkLen = s.chunkLen := rfl
@[simp] theorem takeRecord_magLen : (takeRecord r rest s).magLen = s.magLen := rfl
@[simp] theorem takeRecord_ts : (takeRecord r rest s).ts = s.ts := rfl
@[simp] theorem takeRecord_cache : (takeRecord r rest s).cache = s.cache := rfl
@[simp] theorem takeRecord_outq : (takeRecord r rest s).outq = rest := rfl
@[simp] theorem takeRecord_out : (takeRecord r rest s).out = r := rfl
@[simp] theorem takeRecord_fatal : (takeRecord r rest s).fatal = s.fatal := rfl
@[simp] theorem takeRecord_fatalCause : (takeRecord r rest s).fatalCause = s.fatalCause := rfl
@[simp] theorem takeRecord_inputs : (takeRecord r rest s).inputs = s.inputs := rfl
@[simp] theorem takeRecord_rsp : (takeRecord r rest s).rsp = s.rsp := rfl

end TakeRecordFields

section SetCacheFields
variable (c : Cache) (s : State)

@[simp] theorem setCache_chunk : (setCache c s).chunk = s.chunk := rfl
@[simp] theorem setCache_mag : (setCache c s).mag = s.mag := rfl
@[simp] theorem setCache_aux : (setCache c s).aux = s.aux := rfl
@[simp] theorem setCache_bits : (setCache c s).bits = s.bits := rfl
@[simp] theorem setCache_msg : (setCache c s).msg = s.msg := rfl
@[simp] theorem setCache_errors : (setCache c s).errors = s.errors := rfl
@[simp] theorem setCache_df0 : (setCache c s).df0 = s.df0 := rfl
@[simp] theorem setCache_msgBits : (setCache c s).msgBits = s.msgBits := rfl
@[simp] theorem setCache_high : (setCache c s).high = s.high := rfl
@[simp] theorem setCache_j : (setCache c s).j = s.j := rfl
@[simp] theorem setCache_mode : (setCache c s).mode = s.mode := rfl
@[simp] theorem setCache_ptr : (setCache c s).ptr = s.ptr := rfl
@[simp] theorem setCache_chunkLen : (setCache c s).chunkLen = s.chunkLen := rfl
@[simp] theorem setCache_magLen : (setCache c s).magLen = s.magLen := rfl
@[simp] theorem setCache_ts : (setCache c s).ts = s.ts := rfl
@[simp] theorem setCache_cache : (setCache c s).cache = c := rfl
@[simp] theorem setCache_outq : (setCache c s).outq = s.outq := rfl
@[simp] theorem setCache_out : (setCache c s).out = s.out := rfl
@[simp] theorem setCache_fatal : (setCache c s).fatal = s.fatal := rfl
@[simp] theorem setCache_fatalCause : (setCache c s).fatalCause = s.fatalCause := rfl
@[simp] theorem setCache_inputs : (setCache c s).inputs = s.inputs := rfl
@[simp] theorem setCache_rsp : (setCache c s).rsp = s.rsp := rfl

end SetCacheFields

section BuildVectorFields
variable (s : State)

@[simp] theorem buildVector_chunk : (buildVector s).chunk = s.chunk := rfl
@[simp] theorem buildVector_mag :
    (buildVector s).mag = s.mag.writeBlock 0 (chunkMagnitudes s.chunk s.chunkLen.toNat) := rfl
@[simp] theorem buildVector_aux : (buildVector s).aux = s.aux := rfl
@[simp] theorem buildVector_bits : (buildVector s).bits = s.bits := rfl
@[simp] theorem buildVector_msg : (buildVector s).msg = s.msg := rfl
@[simp] theorem buildVector_errors : (buildVector s).errors = s.errors := rfl
@[simp] theorem buildVector_df0 : (buildVector s).df0 = s.df0 := rfl
@[simp] theorem buildVector_msgBits : (buildVector s).msgBits = s.msgBits := rfl
@[simp] theorem buildVector_high : (buildVector s).high = s.high := rfl
@[simp] theorem buildVector_j : (buildVector s).j = s.j := rfl
@[simp] theorem buildVector_mode : (buildVector s).mode = s.mode := rfl
@[simp] theorem buildVector_ptr : (buildVector s).ptr = s.ptr := rfl
@[simp] theorem buildVector_chunkLen : (buildVector s).chunkLen = s.chunkLen := rfl
@[simp] theorem buildVector_magLen : (buildVector s).magLen = BitVec.ofNat 24 (s.chunkLen.toNat / 2) := rfl
@[simp] theorem buildVector_ts : (buildVector s).ts = s.ts := rfl
@[simp] theorem buildVector_cache : (buildVector s).cache = s.cache := rfl
@[simp] theorem buildVector_outq : (buildVector s).outq = s.outq := rfl
@[simp] theorem buildVector_out : (buildVector s).out = s.out := rfl
@[simp] theorem buildVector_fatal : (buildVector s).fatal = s.fatal := rfl
@[simp] theorem buildVector_fatalCause : (buildVector s).fatalCause = s.fatalCause := rfl
@[simp] theorem buildVector_inputs : (buildVector s).inputs = s.inputs := rfl
@[simp] theorem buildVector_rsp : (buildVector s).rsp = s.rsp := rfl

end BuildVectorFields

section WriteSliceFields
variable (j : Nat) (s : State)

@[simp] theorem writeSlice_chunk : (writeSlice j s).chunk = s.chunk := by
  simp only [writeSlice]
@[simp] theorem writeSlice_mag : (writeSlice j s).mag = s.mag := by
  simp only [writeSlice]
@[simp] theorem writeSlice_aux : (writeSlice j s).aux = s.aux := by
  simp only [writeSlice]
@[simp] theorem writeSlice_bits : (writeSlice j s).bits = symbolVector (sliceBits s.mag j).1 := by
  simp only [writeSlice]
@[simp] theorem writeSlice_msg : (writeSlice j s).msg = packBits (symbolVector (sliceBits s.mag j).1) := by
  simp only [writeSlice]
@[simp] theorem writeSlice_errors : (writeSlice j s).errors = (sliceBits s.mag j).2 := by
  simp only [writeSlice]
@[simp] theorem writeSlice_df0 : (writeSlice j s).df0 = s.df0 := by
  simp only [writeSlice]
@[simp] theorem writeSlice_msgBits : (writeSlice j s).msgBits = s.msgBits := by
  simp only [writeSlice]
@[simp] theorem writeSlice_high : (writeSlice j s).high = s.high := by
  simp only [writeSlice]
@[simp] theorem writeSlice_j : (writeSlice j s).j = s.j := by
  simp only [writeSlice]
@[simp] theorem writeSlice_mode : (writeSlice j s).mode = s.mode := by
  simp only [writeSlice]
@[simp] theorem writeSlice_ptr : (writeSlice j s).ptr = s.ptr := by
  simp only [writeSlice]
@[simp] theorem writeSlice_chunkLen : (writeSlice j s).chunkLen = s.chunkLen := by
  simp only [writeSlice]
@[simp] theorem writeSlice_magLen : (writeSlice j s).magLen = s.magLen := by
  simp only [writeSlice]
@[simp] theorem writeSlice_ts : (writeSlice j s).ts = s.ts := by
  simp only [writeSlice]
@[simp] theorem writeSlice_cache : (writeSlice j s).cache = s.cache := by
  simp only [writeSlice]
@[simp] theorem writeSlice_outq : (writeSlice j s).outq = s.outq := by
  simp only [writeSlice]
@[simp] theorem writeSlice_out : (writeSlice j s).out = s.out := by
  simp only [writeSlice]
@[simp] theorem writeSlice_fatal : (writeSlice j s).fatal = s.fatal := by
  simp only [writeSlice]
@[simp] theorem writeSlice_fatalCause : (writeSlice j s).fatalCause = s.fatalCause := by
  simp only [writeSlice]
@[simp] theorem writeSlice_inputs : (writeSlice j s).inputs = s.inputs := by
  simp only [writeSlice]
@[simp] theorem writeSlice_rsp : (writeSlice j s).rsp = s.rsp := by
  simp only [writeSlice]

end WriteSliceFields

section LatchLengthFields
variable (s : State) (cfg : Parameters)

@[simp] theorem latchLength_chunk : (latchLength s cfg).chunk = s.chunk := rfl
@[simp] theorem latchLength_mag : (latchLength s cfg).mag = s.mag := rfl
@[simp] theorem latchLength_aux : (latchLength s cfg).aux = s.aux := rfl
@[simp] theorem latchLength_bits : (latchLength s cfg).bits = s.bits := rfl
@[simp] theorem latchLength_msg : (latchLength s cfg).msg = s.msg := rfl
@[simp] theorem latchLength_errors : (latchLength s cfg).errors = s.errors := rfl
@[simp] theorem latchLength_df0 : (latchLength s cfg).df0 = formatField s.msg := rfl
@[simp] theorem latchLength_msgBits :
    (latchLength s cfg).msgBits = BitVec.ofNat 7 (lengthOf (formatField s.msg) cfg) := rfl
@[simp] theorem latchLength_high : (latchLength s cfg).high = s.high := rfl
@[simp] theorem latchLength_j : (latchLength s cfg).j = s.j := rfl
@[simp] theorem latchLength_mode : (latchLength s cfg).mode = s.mode := rfl
@[simp] theorem latchLength_ptr : (latchLength s cfg).ptr = s.ptr := rfl
@[simp] theorem latchLength_chunkLen : (latchLength s cfg).chunkLen = s.chunkLen := rfl
@[simp] theorem latchLength_magLen : (latchLength s cfg).magLen = s.magLen := rfl
@[simp] theorem latchLength_ts : (latchLength s cfg).ts = s.ts := rfl
@[simp] theorem latchLength_cache : (latchLength s cfg).cache = s.cache := rfl
@[simp] theorem latchLength_outq : (latchLength s cfg).outq = s.outq := rfl
@[simp] theorem latchLength_out : (latchLength s cfg).out = s.out := rfl
@[simp] theorem latchLength_fatal : (latchLength s cfg).fatal = s.fatal := rfl
@[simp] theorem latchLength_fatalCause : (latchLength s cfg).fatalCause = s.fatalCause := rfl
@[simp] theorem latchLength_inputs : (latchLength s cfg).inputs = s.inputs := rfl
@[simp] theorem latchLength_rsp : (latchLength s cfg).rsp = s.rsp := rfl

end LatchLengthFields

section LatchedSliceFields
variable (samples : Memory 16) (j : Nat) (s : State)

@[simp] theorem latchedSlice_chunk :
    (latchedSlice samples j s).chunk = s.chunk := by
  simp only [latchedSlice, latchLength]
@[simp] theorem latchedSlice_mag :
    (latchedSlice samples j s).mag = s.mag := by
  simp only [latchedSlice, latchLength]
@[simp] theorem latchedSlice_aux :
    (latchedSlice samples j s).aux = s.aux := by
  simp only [latchedSlice, latchLength]
@[simp] theorem latchedSlice_bits :
    (latchedSlice samples j s).bits = symbolVector (sliceBits samples j).1 := by
  simp only [latchedSlice, latchLength]
@[simp] theorem latchedSlice_msg :
    (latchedSlice samples j s).msg = packBits (symbolVector (sliceBits samples j).1) := by
  simp only [latchedSlice, latchLength]
@[simp] theorem latchedSlice_errors :
    (latchedSlice samples j s).errors = (sliceBits samples j).2 := by
  simp only [latchedSlice, latchLength]
@[simp] theorem latchedSlice_df0 :
    (latchedSlice samples j s).df0 = formatField (packBits (symbolVector (sliceBits samples j).1)) := by
  simp only [latchedSlice, latchLength]
@[simp] theorem latchedSlice_msgBits :
    (latchedSlice samples j s).msgBits = BitVec.ofNat 7 (lengthOf (formatField (packBits (symbolVector (sliceBits samples j).1)))) := by
  simp only [latchedSlice, latchLength]
@[simp] theorem latchedSlice_high :
    (latchedSlice samples j s).high = s.high := by
  simp only [latchedSlice, latchLength]
@[simp] theorem latchedSlice_j :
    (latchedSlice samples j s).j = s.j := by
  simp only [latchedSlice, latchLength]
@[simp] theorem latchedSlice_mode :
    (latchedSlice samples j s).mode = s.mode := by
  simp only [latchedSlice, latchLength]
@[simp] theorem latchedSlice_ptr :
    (latchedSlice samples j s).ptr = s.ptr := by
  simp only [latchedSlice, latchLength]
@[simp] theorem latchedSlice_chunkLen :
    (latchedSlice samples j s).chunkLen = s.chunkLen := by
  simp only [latchedSlice, latchLength]
@[simp] theorem latchedSlice_magLen :
    (latchedSlice samples j s).magLen = s.magLen := by
  simp only [latchedSlice, latchLength]
@[simp] theorem latchedSlice_ts :
    (latchedSlice samples j s).ts = s.ts := by
  simp only [latchedSlice, latchLength]
@[simp] theorem latchedSlice_cache :
    (latchedSlice samples j s).cache = s.cache := by
  simp only [latchedSlice, latchLength]
@[simp] theorem latchedSlice_outq :
    (latchedSlice samples j s).outq = s.outq := by
  simp only [latchedSlice, latchLength]
@[simp] theorem latchedSlice_out :
    (latchedSlice samples j s).out = s.out := by
  simp only [latchedSlice, latchLength]
@[simp] theorem latchedSlice_fatal :
    (latchedSlice samples j s).fatal = s.fatal := by
  simp only [latchedSlice, latchLength]
@[simp] theorem latchedSlice_fatalCause :
    (latchedSlice samples j s).fatalCause = s.fatalCause := by
  simp only [latchedSlice, latchLength]
@[simp] theorem latchedSlice_inputs :
    (latchedSlice samples j s).inputs = s.inputs := by
  simp only [latchedSlice, latchLength]
@[simp] theorem latchedSlice_rsp :
    (latchedSlice samples j s).rsp = s.rsp := by
  simp only [latchedSlice, latchLength]

end LatchedSliceFields

section SaveRegionFields
variable (j : Nat) (s : State)

@[simp] theorem saveRegion_chunk : (saveRegion j s).chunk = s.chunk := rfl
@[simp] theorem saveRegion_mag : (saveRegion j s).mag = s.mag := rfl
@[simp] theorem saveRegion_aux :
    (saveRegion j s).aux = s.aux.writeBlock 0 (s.mag.readBlock (j + Config.preambleSamples) Config.auxCap) := rfl
@[simp] theorem saveRegion_bits : (saveRegion j s).bits = s.bits := rfl
@[simp] theorem saveRegion_msg : (saveRegion j s).msg = s.msg := rfl
@[simp] theorem saveRegion_errors : (saveRegion j s).errors = s.errors := rfl
@[simp] theorem saveRegion_df0 : (saveRegion j s).df0 = s.df0 := rfl
@[simp] theorem saveRegion_msgBits : (saveRegion j s).msgBits = s.msgBits := rfl
@[simp] theorem saveRegion_high : (saveRegion j s).high = s.high := rfl
@[simp] theorem saveRegion_j : (saveRegion j s).j = s.j := rfl
@[simp] theorem saveRegion_mode : (saveRegion j s).mode = s.mode := rfl
@[simp] theorem saveRegion_ptr : (saveRegion j s).ptr = s.ptr := rfl
@[simp] theorem saveRegion_chunkLen : (saveRegion j s).chunkLen = s.chunkLen := rfl
@[simp] theorem saveRegion_magLen : (saveRegion j s).magLen = s.magLen := rfl
@[simp] theorem saveRegion_ts : (saveRegion j s).ts = s.ts := rfl
@[simp] theorem saveRegion_cache : (saveRegion j s).cache = s.cache := rfl
@[simp] theorem saveRegion_outq : (saveRegion j s).outq = s.outq := rfl
@[simp] theorem saveRegion_out : (saveRegion j s).out = s.out := rfl
@[simp] theorem saveRegion_fatal : (saveRegion j s).fatal = s.fatal := rfl
@[simp] theorem saveRegion_fatalCause : (saveRegion j s).fatalCause = s.fatalCause := rfl
@[simp] theorem saveRegion_inputs : (saveRegion j s).inputs = s.inputs := rfl
@[simp] theorem saveRegion_rsp : (saveRegion j s).rsp = s.rsp := rfl

end SaveRegionFields

section CorrectRegionFields
variable (j : Nat) (s : State)

@[simp] theorem correctRegion_chunk : (correctRegion j s).chunk = s.chunk := rfl
@[simp] theorem correctRegion_mag :
    (correctRegion j s).mag = if j ≠ 0 ∧ phase s.mag j ≠ 0 then correct s.mag j else s.mag := rfl
@[simp] theorem correctRegion_aux : (correctRegion j s).aux = s.aux := rfl
@[simp] theorem correctRegion_bits : (correctRegion j s).bits = s.bits := rfl
@[simp] theorem correctRegion_msg : (correctRegion j s).msg = s.msg := rfl
@[simp] theorem correctRegion_errors : (correctRegion j s).errors = s.errors := rfl
@[simp] theorem correctRegion_df0 : (correctRegion j s).df0 = s.df0 := rfl
@[simp] theorem correctRegion_msgBits : (correctRegion j s).msgBits = s.msgBits := rfl
@[simp] theorem correctRegion_high : (correctRegion j s).high = s.high := rfl
@[simp] theorem correctRegion_j : (correctRegion j s).j = s.j := rfl
@[simp] theorem correctRegion_mode : (correctRegion j s).mode = s.mode := rfl
@[simp] theorem correctRegion_ptr : (correctRegion j s).ptr = s.ptr := rfl
@[simp] theorem correctRegion_chunkLen : (correctRegion j s).chunkLen = s.chunkLen := rfl
@[simp] theorem correctRegion_magLen : (correctRegion j s).magLen = s.magLen := rfl
@[simp] theorem correctRegion_ts : (correctRegion j s).ts = s.ts := rfl
@[simp] theorem correctRegion_cache : (correctRegion j s).cache = s.cache := rfl
@[simp] theorem correctRegion_outq : (correctRegion j s).outq = s.outq := rfl
@[simp] theorem correctRegion_out : (correctRegion j s).out = s.out := rfl
@[simp] theorem correctRegion_fatal : (correctRegion j s).fatal = s.fatal := rfl
@[simp] theorem correctRegion_fatalCause : (correctRegion j s).fatalCause = s.fatalCause := rfl
@[simp] theorem correctRegion_inputs : (correctRegion j s).inputs = s.inputs := rfl
@[simp] theorem correctRegion_rsp : (correctRegion j s).rsp = s.rsp := rfl

end CorrectRegionFields

section RestoreRegionFields
variable (j : Nat) (s : State)

@[simp] theorem restoreRegion_chunk : (restoreRegion j s).chunk = s.chunk := rfl
@[simp] theorem restoreRegion_mag :
    (restoreRegion j s).mag = s.mag.writeBlock (j + Config.preambleSamples) (s.aux.readBlock 0 Config.auxCap) := rfl
@[simp] theorem restoreRegion_aux : (restoreRegion j s).aux = s.aux := rfl
@[simp] theorem restoreRegion_bits : (restoreRegion j s).bits = s.bits := rfl
@[simp] theorem restoreRegion_msg : (restoreRegion j s).msg = s.msg := rfl
@[simp] theorem restoreRegion_errors : (restoreRegion j s).errors = s.errors := rfl
@[simp] theorem restoreRegion_df0 : (restoreRegion j s).df0 = s.df0 := rfl
@[simp] theorem restoreRegion_msgBits : (restoreRegion j s).msgBits = s.msgBits := rfl
@[simp] theorem restoreRegion_high : (restoreRegion j s).high = s.high := rfl
@[simp] theorem restoreRegion_j : (restoreRegion j s).j = s.j := rfl
@[simp] theorem restoreRegion_mode : (restoreRegion j s).mode = s.mode := rfl
@[simp] theorem restoreRegion_ptr : (restoreRegion j s).ptr = s.ptr := rfl
@[simp] theorem restoreRegion_chunkLen : (restoreRegion j s).chunkLen = s.chunkLen := rfl
@[simp] theorem restoreRegion_magLen : (restoreRegion j s).magLen = s.magLen := rfl
@[simp] theorem restoreRegion_ts : (restoreRegion j s).ts = s.ts := rfl
@[simp] theorem restoreRegion_cache : (restoreRegion j s).cache = s.cache := rfl
@[simp] theorem restoreRegion_outq : (restoreRegion j s).outq = s.outq := rfl
@[simp] theorem restoreRegion_out : (restoreRegion j s).out = s.out := rfl
@[simp] theorem restoreRegion_fatal : (restoreRegion j s).fatal = s.fatal := rfl
@[simp] theorem restoreRegion_fatalCause : (restoreRegion j s).fatalCause = s.fatalCause := rfl
@[simp] theorem restoreRegion_inputs : (restoreRegion j s).inputs = s.inputs := rfl
@[simp] theorem restoreRegion_rsp : (restoreRegion j s).rsp = s.rsp := rfl

end RestoreRegionFields

section PushRecordFields
variable (s : State)

@[simp] theorem pushRecord_chunk : (pushRecord s).chunk = s.chunk := rfl
@[simp] theorem pushRecord_mag : (pushRecord s).mag = s.mag := rfl
@[simp] theorem pushRecord_aux : (pushRecord s).aux = s.aux := rfl
@[simp] theorem pushRecord_bits : (pushRecord s).bits = s.bits := rfl
@[simp] theorem pushRecord_msg : (pushRecord s).msg = s.msg := rfl
@[simp] theorem pushRecord_errors : (pushRecord s).errors = s.errors := rfl
@[simp] theorem pushRecord_df0 : (pushRecord s).df0 = s.df0 := rfl
@[simp] theorem pushRecord_msgBits : (pushRecord s).msgBits = s.msgBits := rfl
@[simp] theorem pushRecord_high : (pushRecord s).high = s.high := rfl
@[simp] theorem pushRecord_j : (pushRecord s).j = s.j := rfl
@[simp] theorem pushRecord_mode : (pushRecord s).mode = s.mode := rfl
@[simp] theorem pushRecord_ptr : (pushRecord s).ptr = s.ptr := rfl
@[simp] theorem pushRecord_chunkLen : (pushRecord s).chunkLen = s.chunkLen := rfl
@[simp] theorem pushRecord_magLen : (pushRecord s).magLen = s.magLen := rfl
@[simp] theorem pushRecord_ts : (pushRecord s).ts = s.ts := rfl
@[simp] theorem pushRecord_cache : (pushRecord s).cache = s.cache := rfl
@[simp] theorem pushRecord_outq : (pushRecord s).outq = s.outq ++ [recordOf s] := rfl
@[simp] theorem pushRecord_out : (pushRecord s).out = s.out := rfl
@[simp] theorem pushRecord_fatal : (pushRecord s).fatal = s.fatal := rfl
@[simp] theorem pushRecord_fatalCause : (pushRecord s).fatalCause = s.fatalCause := rfl
@[simp] theorem pushRecord_inputs : (pushRecord s).inputs = s.inputs := rfl
@[simp] theorem pushRecord_rsp : (pushRecord s).rsp = s.rsp := rfl

end PushRecordFields

section StartScanFields
variable (s : State)

@[simp] theorem startScan_chunk : (startScan s).chunk = s.chunk := rfl
@[simp] theorem startScan_mag : (startScan s).mag = s.mag := rfl
@[simp] theorem startScan_aux : (startScan s).aux = s.aux := rfl
@[simp] theorem startScan_bits : (startScan s).bits = s.bits := rfl
@[simp] theorem startScan_msg : (startScan s).msg = s.msg := rfl
@[simp] theorem startScan_errors : (startScan s).errors = s.errors := rfl
@[simp] theorem startScan_df0 : (startScan s).df0 = s.df0 := rfl
@[simp] theorem startScan_msgBits : (startScan s).msgBits = s.msgBits := rfl
@[simp] theorem startScan_high : (startScan s).high = s.high := rfl
@[simp] theorem startScan_j : (startScan s).j = 0 := rfl
@[simp] theorem startScan_mode : (startScan s).mode = .scanningNormal := rfl
@[simp] theorem startScan_ptr : (startScan s).ptr = s.ptr := rfl
@[simp] theorem startScan_chunkLen : (startScan s).chunkLen = s.chunkLen := rfl
@[simp] theorem startScan_magLen : (startScan s).magLen = s.magLen := rfl
@[simp] theorem startScan_ts : (startScan s).ts = s.ts := rfl
@[simp] theorem startScan_cache : (startScan s).cache = s.cache := rfl
@[simp] theorem startScan_outq : (startScan s).outq = s.outq := rfl
@[simp] theorem startScan_out : (startScan s).out = s.out := rfl
@[simp] theorem startScan_fatal : (startScan s).fatal = s.fatal := rfl
@[simp] theorem startScan_fatalCause : (startScan s).fatalCause = s.fatalCause := rfl
@[simp] theorem startScan_inputs : (startScan s).inputs = s.inputs := rfl
@[simp] theorem startScan_rsp : (startScan s).rsp = s.rsp := rfl

end StartScanFields

section ApplyTransitionFields
variable (o : CandidateOutcome) (s : State)

@[simp] theorem applyTransition_chunk : (applyTransition o s).chunk = s.chunk := rfl
@[simp] theorem applyTransition_mag : (applyTransition o s).mag = s.mag := rfl
@[simp] theorem applyTransition_aux : (applyTransition o s).aux = s.aux := rfl
@[simp] theorem applyTransition_bits : (applyTransition o s).bits = s.bits := rfl
@[simp] theorem applyTransition_msg : (applyTransition o s).msg = s.msg := rfl
@[simp] theorem applyTransition_errors : (applyTransition o s).errors = s.errors := rfl
@[simp] theorem applyTransition_df0 : (applyTransition o s).df0 = s.df0 := rfl
@[simp] theorem applyTransition_msgBits : (applyTransition o s).msgBits = s.msgBits := rfl
@[simp] theorem applyTransition_high : (applyTransition o s).high = s.high := rfl
@[simp] theorem applyTransition_j :
    (applyTransition o s).j = BitVec.ofNat 24 (nextJ s.mode o s.j.toNat s.msgBits.toNat) := rfl
@[simp] theorem applyTransition_mode : (applyTransition o s).mode = nextMode s.mode o := rfl
@[simp] theorem applyTransition_ptr : (applyTransition o s).ptr = s.ptr := rfl
@[simp] theorem applyTransition_chunkLen : (applyTransition o s).chunkLen = s.chunkLen := rfl
@[simp] theorem applyTransition_magLen : (applyTransition o s).magLen = s.magLen := rfl
@[simp] theorem applyTransition_ts : (applyTransition o s).ts = s.ts := rfl
@[simp] theorem applyTransition_cache : (applyTransition o s).cache = s.cache := rfl
@[simp] theorem applyTransition_outq : (applyTransition o s).outq = s.outq := rfl
@[simp] theorem applyTransition_out : (applyTransition o s).out = s.out := rfl
@[simp] theorem applyTransition_fatal : (applyTransition o s).fatal = s.fatal := rfl
@[simp] theorem applyTransition_fatalCause : (applyTransition o s).fatalCause = s.fatalCause := rfl
@[simp] theorem applyTransition_inputs : (applyTransition o s).inputs = s.inputs := rfl
@[simp] theorem applyTransition_rsp : (applyTransition o s).rsp = s.rsp := rfl

end ApplyTransitionFields

section LatchHighFields
variable (v : PreambleVerdict) (s : State)

@[simp] theorem latchHigh_chunk : (latchHigh v s).chunk = s.chunk := by
  unfold latchHigh; split <;> rfl
@[simp] theorem latchHigh_mag : (latchHigh v s).mag = s.mag := by
  unfold latchHigh; split <;> rfl
@[simp] theorem latchHigh_aux : (latchHigh v s).aux = s.aux := by
  unfold latchHigh; split <;> rfl
@[simp] theorem latchHigh_bits : (latchHigh v s).bits = s.bits := by
  unfold latchHigh; split <;> rfl
@[simp] theorem latchHigh_msg : (latchHigh v s).msg = s.msg := by
  unfold latchHigh; split <;> rfl
@[simp] theorem latchHigh_errors : (latchHigh v s).errors = s.errors := by
  unfold latchHigh; split <;> rfl
@[simp] theorem latchHigh_df0 : (latchHigh v s).df0 = s.df0 := by
  unfold latchHigh; split <;> rfl
@[simp] theorem latchHigh_msgBits : (latchHigh v s).msgBits = s.msgBits := by
  unfold latchHigh; split <;> rfl
@[simp] theorem latchHigh_high : (latchHigh v s).high = if v.shape then v.high else s.high := by
  unfold latchHigh; split <;> rfl
@[simp] theorem latchHigh_j : (latchHigh v s).j = s.j := by
  unfold latchHigh; split <;> rfl
@[simp] theorem latchHigh_mode : (latchHigh v s).mode = s.mode := by
  unfold latchHigh; split <;> rfl
@[simp] theorem latchHigh_ptr : (latchHigh v s).ptr = s.ptr := by
  unfold latchHigh; split <;> rfl
@[simp] theorem latchHigh_chunkLen : (latchHigh v s).chunkLen = s.chunkLen := by
  unfold latchHigh; split <;> rfl
@[simp] theorem latchHigh_magLen : (latchHigh v s).magLen = s.magLen := by
  unfold latchHigh; split <;> rfl
@[simp] theorem latchHigh_ts : (latchHigh v s).ts = s.ts := by
  unfold latchHigh; split <;> rfl
@[simp] theorem latchHigh_cache : (latchHigh v s).cache = s.cache := by
  unfold latchHigh; split <;> rfl
@[simp] theorem latchHigh_outq : (latchHigh v s).outq = s.outq := by
  unfold latchHigh; split <;> rfl
@[simp] theorem latchHigh_out : (latchHigh v s).out = s.out := by
  unfold latchHigh; split <;> rfl
@[simp] theorem latchHigh_fatal : (latchHigh v s).fatal = s.fatal := by
  unfold latchHigh; split <;> rfl
@[simp] theorem latchHigh_fatalCause : (latchHigh v s).fatalCause = s.fatalCause := by
  unfold latchHigh; split <;> rfl
@[simp] theorem latchHigh_inputs : (latchHigh v s).inputs = s.inputs := by
  unfold latchHigh; split <;> rfl
@[simp] theorem latchHigh_rsp : (latchHigh v s).rsp = s.rsp := by
  unfold latchHigh; split <;> rfl

end LatchHighFields

section ValidateMsgFields
variable (now : Ticks) (s : State) (cfg : Parameters)

@[simp] theorem validateMsg_chunk : (validateMsg now s cfg).1.chunk = s.chunk := rfl
@[simp] theorem validateMsg_mag : (validateMsg now s cfg).1.mag = s.mag := rfl
@[simp] theorem validateMsg_aux : (validateMsg now s cfg).1.aux = s.aux := rfl
@[simp] theorem validateMsg_bits : (validateMsg now s cfg).1.bits = s.bits := rfl
@[simp] theorem validateMsg_errors : (validateMsg now s cfg).1.errors = s.errors := rfl
@[simp] theorem validateMsg_df0 : (validateMsg now s cfg).1.df0 = s.df0 := rfl
@[simp] theorem validateMsg_msgBits : (validateMsg now s cfg).1.msgBits = s.msgBits := rfl
@[simp] theorem validateMsg_high : (validateMsg now s cfg).1.high = s.high := rfl
@[simp] theorem validateMsg_j : (validateMsg now s cfg).1.j = s.j := rfl
@[simp] theorem validateMsg_mode : (validateMsg now s cfg).1.mode = s.mode := rfl
@[simp] theorem validateMsg_ptr : (validateMsg now s cfg).1.ptr = s.ptr := rfl
@[simp] theorem validateMsg_chunkLen : (validateMsg now s cfg).1.chunkLen = s.chunkLen := rfl
@[simp] theorem validateMsg_magLen : (validateMsg now s cfg).1.magLen = s.magLen := rfl
@[simp] theorem validateMsg_ts : (validateMsg now s cfg).1.ts = s.ts := rfl
@[simp] theorem validateMsg_outq : (validateMsg now s cfg).1.outq = s.outq := rfl
@[simp] theorem validateMsg_out : (validateMsg now s cfg).1.out = s.out := rfl
@[simp] theorem validateMsg_fatal : (validateMsg now s cfg).1.fatal = s.fatal := rfl
@[simp] theorem validateMsg_fatalCause : (validateMsg now s cfg).1.fatalCause = s.fatalCause := rfl
@[simp] theorem validateMsg_inputs : (validateMsg now s cfg).1.inputs = s.inputs := rfl
@[simp] theorem validateMsg_rsp : (validateMsg now s cfg).1.rsp = s.rsp := rfl

end ValidateMsgFields

end Sys2Proof.Machine
end

