-- ==== Sys2Proof/Laws/Ops.lean ====
section
/-! SUPPORT. What each shared operation over responses, errors, registers and message bytes does, said once. -/

namespace Sys2Proof.Machine

/-! ### Responses -/

theorem statusCode_injective {a b : Status} (h : statusCode a = statusCode b) : a = b := by
  cases a <;> cases b <;> first | rfl | exact absurd h (by decide)

theorem responseWord_getLsbD (st : Status) (v : Word56) (i : Nat) :
    (responseWord st v).getLsbD i = if i < 56 then v.getLsbD i else (statusCode st).getLsbD (i - 56) :=
  BitVec.getLsbD_append

/-- A response word determines its status and its value. -/
theorem responseWord_inj {a b : Status} {v w : Word56} :
    responseWord a v = responseWord b w ↔ a = b ∧ v = w := by
  constructor
  · intro h
    have hs : statusCode a = statusCode b := by
      refine BitVec.eq_of_getLsbD_eq fun i _ => ?_
      simpa [responseWord_getLsbD] using congrArg (fun x => BitVec.getLsbD x (56 + i)) h
    have hv : v = w := by
      refine BitVec.eq_of_getLsbD_eq fun i hi => ?_
      have := congrArg (fun x => BitVec.getLsbD x i) h
      simp only [responseWord_getLsbD, hi, if_true] at this
      exact this
    exact ⟨statusCode_injective hs, hv⟩
  · rintro ⟨rfl, rfl⟩; rfl

theorem respond_next (v : Word56) (s : State) : respond v s = .next (withResponse .ok v s) := rfl

theorem raise_next (st : Status) (s : State) : raise st s = .next (withResponse st 0 s) := rfl

theorem raiseChunkLen_next (s : State) :
    raiseChunkLen s = .next (withResponse .chunkLen 0 (setFatal s)) := rfl

/-! ### The FATAL gate (R294, R296) -/

theorem whenRunning_fatal {s : State} (h : s.fatal = true) (body : Result) :
    whenRunning s body = .next (withResponse .fatal 0 s) := by simp [whenRunning, h, raise]

@[simp] theorem whenRunning_running {s : State} (h : s.fatal = false) (body : Result) :
    whenRunning s body = body := by simp [whenRunning, h]

/-- Either the gate refuses, and the state changes in the response only, or the command's body runs. -/
theorem whenRunning_cases {s t : State} {body : Result} (h : whenRunning s body = .next t) :
    (s.fatal = true ∧ t = withResponse .fatal 0 s) ∨ (s.fatal = false ∧ body = .next t) := by
  cases hf : s.fatal with
  | true => rw [whenRunning_fatal hf] at h; cases h; exact .inl ⟨rfl, rfl⟩
  | false => rw [whenRunning_running hf] at h; exact .inr ⟨rfl, h⟩

/-! ### Registers -/

/-- RDREG has a word exactly for the register numbers of R42. -/
theorem registerWord_isSome (s : State) (k : Nat) (cfg : Parameters := Config.defaults) :
    (registerWord s k cfg).isSome = true ↔ k ≤ 12 ∨ (16 ≤ k ∧ k ≤ 21) := by
  by_cases h : k ≤ 12
  · simp only [registerWord, h, if_true, true_or, iff_true]
    interval_cases k <;> rfl
  · simp only [registerWord, h, if_false, false_or]
    by_cases h' : 16 ≤ k ∧ k ≤ 21
    · obtain ⟨h1, h2⟩ := h'
      simp only [h1, h2, and_self, iff_true]
      interval_cases k <;> rfl
    · simp only [h', iff_false]
      unfold parameterRegister
      split <;> first | (exfalso; omega) | simp

/-! ### Message bytes -/

/-- The bits of a message made byte by byte: byte `t` from the end is the list's. -/
theorem getLsbD_foldBytes (l : List Byte) (t i : Nat) (ht : t < l.length) (hi : i < 8) (hl : 8 * l.length ≤ 112) :
    (msgOfBytes l).getLsbD (8 * t + i) = (l.getD (l.length - 1 - t) 0).getLsbD i := by
  induction l using List.reverseRecOn generalizing t with
  | nil => simp at ht
  | append_singleton l b ih =>
    have hlen : (l ++ [b]).length = l.length + 1 := by simp
    rw [hlen] at ht hl
    have hfold : msgOfBytes (l ++ [b]) = (msgOfBytes l <<< 8) ||| b.setWidth 112 := by simp [msgOfBytes]
    rw [hfold, hlen]
    cases t with
    | zero =>
      have hlt : i < 112 := by omega
      simp [hi, hlt]
    | succ t =>
      have h1 : 8 * (t + 1) + i - 8 = 8 * t + i := by omega
      have h2 : ¬ 8 * (t + 1) + i < 8 := by omega
      have h3 : 8 * (t + 1) + i < 112 := by omega
      have h4 : l.length + 1 - 1 - (t + 1) = l.length - 1 - t := by omega
      have h5 : l.length - 1 - t < l.length := by omega
      have h6 : b.getLsbD (8 * (t + 1) + i) = false := BitVec.getLsbD_of_ge _ _ (by omega)
      rw [h4, List.getD_append _ _ _ _ h5, ← ih t (by omega) (by omega)]
      simp only [BitVec.getLsbD_or, BitVec.getLsbD_shiftLeft, BitVec.getLsbD_setWidth, h1, h2, h3, h6]
      simp

/-- The bytes of the message made of 14 bytes are those bytes. -/
theorem msgByte_msgOfBytes (l : List Byte) (hl : l.length = 14) (n : Nat) (hn : n < 14) :
    msgByte (msgOfBytes l) n = l.getD n 0 := by
  refine BitVec.eq_of_getLsbD_eq fun i hi => ?_
  have h := getLsbD_foldBytes l (13 - n) i (by omega) hi (by omega)
  rw [show l.length - 1 - (13 - n) = n by omega] at h
  simpa [msgByte, hi] using h

/-- Messages with the same bytes are the same message. -/
theorem msg_ext {M N : Msg} (h : ∀ n < 14, msgByte M n = msgByte N n) : M = N := by
  refine BitVec.eq_of_getLsbD_eq fun i hi => ?_
  have hb := congrArg (fun x => BitVec.getLsbD x (i % 8)) (h (13 - i / 8) (by omega))
  have h1 : i % 8 < 8 := Nat.mod_lt _ (by omega)
  have h2 : 8 * (13 - (13 - i / 8)) + i % 8 = i := by omega
  simpa [msgByte, h1, h2] using hb

/-- The seven bytes of a 56-bit field, most significant first (R66). -/
theorem sevenBytes_byte (M : Msg) (first n : Nat) (hn : n < 7) :
    (sevenBytes M first).extractLsb' (48 - 8 * n) 8 = msgByte M (first + n) := by
  refine BitVec.eq_of_getLsbD_eq fun i hi => ?_
  rw [BitVec.getLsbD_extractLsb']
  change (decide (i < 8) && BitVec.getLsbD (w := 8 + 8 + 8 + 8 + 8 + 8 + 8) _ _) = _
  have hn' : n = 0 ∨ n = 1 ∨ n = 2 ∨ n = 3 ∨ n = 4 ∨ n = 5 ∨ n = 6 := by omega
  simp only [sevenBytes, BitVec.getLsbD_append, hi, decide_true, Bool.true_and]
  rcases hn' with rfl | rfl | rfl | rfl | rfl | rfl | rfl <;>
    repeat first | rw [if_pos (by omega)] | rw [if_neg (by omega)]
  all_goals congr 1; omega

/-- LDM0's message: the operand's bytes first, then the old bytes 7 to 13 (R260). -/
theorem msgByte_loadFirstSeven (M : Msg) (m : Word56) (n : Nat) (hn : n < 14) :
    msgByte (loadFirstSeven M m) n = if n < 7 then m56Byte m n else msgByte M n := by
  rw [loadFirstSeven, msgByte_msgOfBytes _ (by simp) n hn]
  interval_cases n <;> rfl

/-- LDM1's message: the old bytes 0 to 6, then the operand's bytes (R261). -/
theorem msgByte_loadLastSeven (M : Msg) (m : Word56) (n : Nat) (hn : n < 14) :
    msgByte (loadLastSeven M m) n = if n < 7 then msgByte M n else m56Byte m (n - 7) := by
  rw [loadLastSeven, msgByte_msgOfBytes _ (by simp) n hn]
  interval_cases n <;> rfl

/-! ### The host's inputs -/

/-- Everything one step can do: wait, answer an illegal word, run a command, or reset (R90, R95, R320 to R322). -/
theorem step_cases {s t : State} (h : step s = .next t) :
    (s.inputs = [] ∧ t = s) ∨
    (∃ w rest e, s.inputs = .command w :: rest ∧ decode w = .error e ∧
      t = withResponse .illegal 0 (takeInput rest s)) ∨
    (∃ w rest i, s.inputs = .command w :: rest ∧ decode w = .ok i ∧ exec i (takeInput rest s) = .next t) ∨
    (∃ rest, (s.inputs = .reset :: rest ∨ ∃ w, s.inputs = .resetDuring w :: rest) ∧
      t = resetBlock (takeInput rest s)) := by
  unfold step stepBy at h
  split at h
  · rename_i hi; cases h; exact .inl ⟨hi, rfl⟩
  · rename_i w rest hi
    split at h
    · rename_i i hd; exact .inr (.inr (.inl ⟨w, rest, i, hi, hd, h⟩))
    · rename_i e hd; cases h; exact .inr (.inl ⟨w, rest, e, hi, hd, rfl⟩)
  · rename_i rest hi; cases h; exact .inr (.inr (.inr ⟨rest, .inl hi, rfl⟩))
  · rename_i w rest hi; cases h; exact .inr (.inr (.inr ⟨rest, .inr ⟨w, hi⟩, rfl⟩))

end Sys2Proof.Machine
end

