-- ==== Sys2Proof/Laws/PerInstr.lean ====
section
/-! SUPPORT. A statement about each command as syntax, proved constructor by constructor: its command word has an opcode of
the table, and no operand bit outside those its format names (R92, R95, R97). -/

namespace Sys2Proof

theorem opcodeOf_commandWord (op : BitVec 8) (operand : Word56) : opcodeOf (commandWord op operand) = op := by
  refine BitVec.eq_of_getLsbD_eq fun i hi => ?_
  have h : (commandWord op operand).getLsbD (56 + i) = op.getLsbD i := by
    rw [commandWord]; exact BitVec.getLsbD_append.trans (by simp)
  simpa [opcodeOf, hi] using h

theorem operandOf_commandWord (op : BitVec 8) (operand : Word56) :
    operandOf (commandWord op operand) = operand := by
  refine BitVec.eq_of_getLsbD_eq fun i hi => ?_
  have h : (commandWord op operand).getLsbD i = operand.getLsbD i := by
    rw [commandWord]; exact BitVec.getLsbD_append.trans (by simp [hi])
  simpa [operandOf, hi] using h

/-- An operand below a power of two has no bit from that power up. -/
theorem reserved_eq_zero (x : Word56) (k : Nat) (hx : x.toNat < 2 ^ k) (named : Word56)
    (hn : ∀ i < 56, i < k → named.getLsbD i = true) : x &&& ~~~named = 0 := by
  refine BitVec.eq_of_getLsbD_eq fun i hi => ?_
  by_cases hk : i < k
  · simp [hn i hi hk]
  · have h : x.getLsbD i = false := by
      rw [BitVec.getLsbD]
      exact Nat.testBit_lt_two_pow (hx.trans_le (Nat.pow_le_pow_right (by omega) (by omega)))
    simp [h]

theorem toNat_zero_append {n m : Nat} (x : BitVec m) : ((0 : BitVec n) ++ x).toNat = x.toNat := by
  simp [BitVec.toNat_append]

theorem byteOperand_reserved (k : BitVec 8) : byteOperand k &&& ~~~(0xFF : Word56) = 0 :=
  reserved_eq_zero _ 8 (by rw [byteOperand]; exact (toNat_zero_append (n := 48) k).trans_lt k.isLt) _ (by decide)

theorem halfOperand_reserved (h : BitVec 16) : halfOperand h &&& ~~~(0xFFFF : Word56) = 0 :=
  reserved_eq_zero _ 16 (by rw [halfOperand]; exact (toNat_zero_append (n := 40) h).trans_lt h.isLt) _ (by decide)

theorem iqOperand_reserved (i q : BitVec 8) : iqOperand i q &&& ~~~(0xFFFF : Word56) = 0 :=
  reserved_eq_zero _ 16 (by rw [iqOperand]; exact (toNat_zero_append (n := 40) (i ++ q)).trans_lt (i ++ q).isLt)
    _ (by decide)

theorem addrOperand_reserved (a : BitVec 24) : addrOperand a &&& ~~~(0xFFFFFF : Word56) = 0 :=
  reserved_eq_zero _ 24 (by rw [addrOperand]; exact (toNat_zero_append (n := 32) a).trans_lt a.isLt) _ (by decide)

theorem jbOperand_reserved (j : BitVec 24) (bits : BitVec 8) :
    jbOperand j bits &&& ~~~(0xFFFFFFFF : Word56) = 0 :=
  reserved_eq_zero _ 32
    (by rw [jbOperand]; exact (toNat_zero_append (n := 24) (bits ++ j)).trans_lt (bits ++ j).isLt) _ (by decide)

theorem wholeOperand_reserved (x : Word56) : x &&& ~~~(0xFFFFFFFFFFFFFF : Word56) = 0 :=
  reserved_eq_zero x 56 x.isLt _ (by decide)

namespace Laws.EncodesLegally

/-- The command's word is legal in the sense of R95: a listed opcode, and every reserved operand bit 0. -/
def Statement (i : Instr) : Prop :=
  ∃ r ∈ opcodeRows, opcodeOf (encode i) = r.op ∧ operandOf (encode i) &&& ~~~(namedBits r.format) = 0

/-- A command word made of a row's opcode and an operand without reserved bits is legal. -/
theorem of_row (n : Nat) (hn : n < opcodeRows.length) {operand : Word56}
    (h : operand &&& ~~~(namedBits opcodeRows[n].format) = 0) :
    ∃ r ∈ opcodeRows, opcodeOf (commandWord opcodeRows[n].op operand) = r.op ∧
      operandOf (commandWord opcodeRows[n].op operand) &&& ~~~(namedBits r.format) = 0 :=
  ⟨opcodeRows[n], List.getElem_mem hn, opcodeOf_commandWord _ _, by rwa [operandOf_commandWord]⟩

theorem nop : Statement .nop := of_row 0 (by decide) (operand := 0) rfl
theorem sreset : Statement .sreset := of_row 1 (by decide) (operand := 0) rfl
theorem rdreg (k : BitVec 8) : Statement (.rdreg k) := of_row 2 (by decide) (byteOperand_reserved k)
theorem setptr (a : BitVec 24) : Statement (.setptr a) := of_row 3 (by decide) (addrOperand_reserved a)
theorem wrb (b : BitVec 8) : Statement (.wrb b) := of_row 4 (by decide) (byteOperand_reserved b)
theorem setlen (n : BitVec 24) : Statement (.setlen n) := of_row 5 (by decide) (addrOperand_reserved n)
theorem wrm (h : BitVec 16) : Statement (.wrm h) := of_row 6 (by decide) (halfOperand_reserved h)
theorem setmlen (n : BitVec 24) : Statement (.setmlen n) := of_row 7 (by decide) (addrOperand_reserved n)
theorem rdmag : Statement .rdmag := of_row 8 (by decide) (operand := 0) rfl
theorem setts (t : BitVec 56) : Statement (.setts t) := of_row 9 (by decide) (wholeOperand_reserved t)
theorem ldm0 (m : BitVec 56) : Statement (.ldm0 m) := of_row 10 (by decide) (wholeOperand_reserved m)
theorem ldm1 (m : BitVec 56) : Statement (.ldm1 m) := of_row 11 (by decide) (wholeOperand_reserved m)
theorem rdm0 : Statement .rdm0 := of_row 12 (by decide) (operand := 0) rfl
theorem rdm1 : Statement .rdm1 := of_row 13 (by decide) (operand := 0) rfl
theorem rdbit (k : BitVec 8) : Statement (.rdbit k) := of_row 14 (by decide) (byteOperand_reserved k)
theorem pop : Statement .pop := of_row 15 (by decide) (operand := 0) rfl
theorem rdo0 : Statement .rdo0 := of_row 16 (by decide) (operand := 0) rfl
theorem rdo1 : Statement .rdo1 := of_row 17 (by decide) (operand := 0) rfl
theorem rdots : Statement .rdots := of_row 18 (by decide) (operand := 0) rfl
theorem rdb : Statement .rdb := of_row 19 (by decide) (operand := 0) rfl
theorem lutrd (i q : BitVec 8) : Statement (.lutrd i q) := of_row 20 (by decide) (iqOperand_reserved i q)
theorem magvec : Statement .magvec := of_row 21 (by decide) (operand := 0) rfl
theorem prechk (j : BitVec 24) : Statement (.prechk j) := of_row 22 (by decide) (addrOperand_reserved j)
theorem phdet (j : BitVec 24) : Statement (.phdet j) := of_row 23 (by decide) (addrOperand_reserved j)
theorem phcor (j : BitVec 24) : Statement (.phcor j) := of_row 24 (by decide) (addrOperand_reserved j)
theorem slice (j : BitVec 24) : Statement (.slice j) := of_row 25 (by decide) (addrOperand_reserved j)
theorem qual (j : BitVec 24) (bits : BitVec 8) : Statement (.qual j bits) :=
  of_row 26 (by decide) (jbOperand_reserved j bits)
theorem crc (bits : BitVec 8) : Statement (.crc bits) := of_row 27 (by decide) (byteOperand_reserved bits)
theorem fix1 (bits : BitVec 8) : Statement (.fix1 bits) := of_row 28 (by decide) (byteOperand_reserved bits)
theorem fix2 (bits : BitVec 8) : Statement (.fix2 bits) := of_row 29 (by decide) (byteOperand_reserved bits)
theorem apchk (bits : BitVec 8) : Statement (.apchk bits) := of_row 30 (by decide) (byteOperand_reserved bits)
theorem validate : Statement .validate := of_row 31 (by decide) (operand := 0) rfl
theorem crctab (k : BitVec 8) : Statement (.crctab k) := of_row 32 (by decide) (byteOperand_reserved k)
theorem ccont (addr : BitVec 24) : Statement (.ccont addr) :=
  of_row 33 (by decide) (addrOperand_reserved addr)
theorem cins (addr : BitVec 24) : Statement (.cins addr) := of_row 34 (by decide) (addrOperand_reserved addr)
theorem demod : Statement .demod := of_row 35 (by decide) (operand := 0) rfl
theorem scan : Statement .scan := of_row 36 (by decide) (operand := 0) rfl

end Laws.EncodesLegally

end Sys2Proof
end

