-- ==== Sys2Proof/Laws/Units.lean ====
section
/-! SUPPORT. One lemma for each function that the unit commands and the sequencer share (R98): what it can do, so that a
caller need not unfold it. -/

namespace Sys2Proof.Machine

/-! ### The integer square root (R11) -/

theorem isqrtFrom_spec (n v r : Nat) (hr : r * r ≤ v) (hv : v < (r + 2 ^ n) * (r + 2 ^ n)) :
    isqrtFrom n v r * isqrtFrom n v r ≤ v ∧ v < (isqrtFrom n v r + 1) * (isqrtFrom n v r + 1) := by
  induction n generalizing r with
  | zero => exact ⟨hr, by simpa [isqrtFrom] using hv⟩
  | succ n ih =>
    simp only [isqrtFrom]
    split
    · rename_i h
      refine ih _ h ?_
      rwa [Nat.add_assoc, ← Nat.two_mul, ← Nat.pow_succ']
    · rename_i h
      exact ih _ hr (by omega)

/-- `isqrt v` is the largest natural whose square is at most `v`. -/
theorem isqrt_spec (v : Nat) : isqrt v * isqrt v ≤ v ∧ v < (isqrt v + 1) * (isqrt v + 1) := by
  refine isqrtFrom_spec _ v 0 (by simp) ?_
  have h : v < 2 ^ (v.log2 + 1) := Nat.lt_log2_self
  refine h.trans_le ?_
  rw [Nat.zero_add, ← Nat.pow_add]
  exact Nat.pow_le_pow_right (by omega) (by omega)

/-! ### Preamble, phase correction -/

/-- The preamble level fits 16 bits with room (R30). -/
theorem preambleLevel_le (mag : Memory 16) (j : Nat) : preambleLevel mag j ≤ 43690 := by
  have h : ∀ x, sampleAt mag x ≤ 65535 := fun x => by have := (mag.read x).isLt; unfold sampleAt; omega
  have h0 := h j; have h2 := h (j + 2); have h7 := h (j + 7); have h9 := h (j + 9)
  unfold preambleLevel; omega

/-- A test that passes has passed the shape test, and its level is positive (R142). -/
theorem preamble_pass {mag : Memory 16} {j : Nat} (h : (preamble mag j).pass = true) :
    (preamble mag j).shape = true ∧ 0 < preambleLevel mag j := by
  unfold preamble at h ⊢
  split at h
  · rename_i hs
    simp only [hs, if_true, true_and]
    simp only [preambleQuiet] at h
    by_contra hc
    simp [show preambleLevel mag j = 0 by omega] at h
  · cases h

/-- One iteration of the correction rewrites its own sample and no other. -/
theorem read_correctStep (j : Nat) (mag : Memory 16) (i a : Nat) :
    (correctStep j mag i).read a =
      if a = j + 16 + 2 * i + 2 then
        rescale (sampleAt mag (j + 16 + 2 * i)) (sampleAt mag (j + 16 + 2 * i + 1)) (mag.read a)
      else mag.read a := by
  simp only [correctStep, Memory.read_write, Config.preambleSamples]
  split
  · rename_i h; rw [h]
  · rfl

/-- After `n` iterations the samples outside those `n` places are as before. -/
theorem read_correct_prefix (j : Nat) (mag : Memory 16) (n a : Nat) (h : ∀ i < n, a ≠ j + 16 + 2 * i + 2) :
    (((List.range n).foldl (correctStep j) mag)).read a = mag.read a := by
  induction n with
  | zero => rfl
  | succ n ih =>
    rw [List.range_succ, List.foldl_append, List.foldl_cons, List.foldl_nil, read_correctStep,
      if_neg (h n (by omega)), ih fun i hi => h i (by omega)]

/-- Phase correction changes samples inside the data region only (R146). -/
theorem read_correct_outside (mag : Memory 16) (j a : Nat) (h : a < j + 16 ∨ j + 240 ≤ a) :
    (correct mag j).read a = mag.read a :=
  read_correct_prefix j mag 111 a fun i hi => by omega

/-- Phase correction keeps the canonical form of the vector. -/
theorem Memory.wf_correct {cap : Nat} {mag : Memory 16} (h : mag.wf cap) {j : Nat} (hj : j + 238 < cap) :
    (correct mag j).wf cap := by
  suffices hp : ∀ n ≤ 111, ((List.range n).foldl (correctStep j) mag).wf cap from hp 111 le_rfl
  intro n hn
  induction n with
  | zero => exact h
  | succ n ih =>
    rw [List.range_succ, List.foldl_append, List.foldl_cons, List.foldl_nil]
    exact Memory.wf_write (ih (by omega)) (by simp only [Config.preambleSamples]; omega) _

/-- The vector that MAGVEC writes keeps the canonical form. -/
theorem wf_buildVector {s : State} {cfg : Parameters} (h : s.mag.wf cfg.magCap)
    (hl : s.chunkLen.toNat ≤ cfg.chunkCap) : (buildVector s).mag.wf cfg.magCap := by
  have hlen : (chunkMagnitudes s.chunk s.chunkLen.toNat).length = s.chunkLen.toNat / 2 := by simp [chunkMagnitudes]
  exact Memory.wf_writeBlock h _ (by rw [hlen, Parameters.magCap]; omega)

/-! ### Slicer -/

@[simp] theorem sliceFrom_length (k : Nat) (prev : Symbol) (e : BitVec 6) (l : List (Nat × Nat)) :
    (sliceFrom k prev e l).1.length = l.length := by
  induction l generalizing k prev e with
  | nil => rfl
  | cons d rest ih => obtain ⟨a, b⟩ := d; simp [sliceFrom, ih]

@[simp] theorem sliceBits_length (mag : Memory 16) (j : Nat) : (sliceBits mag j).1.length = 112 := by
  simp [sliceBits, Config.longBits]

@[simp] theorem symbolAt_symbolVector (l : List Symbol) (k : Nat) (hk : k < 112) :
    symbolAt (symbolVector l) k = l.getD k .zero := by
  simp [symbolAt, symbolVector, List.getD_eq_getElem?_getD, hk]

/-- Byte `n` of the packed message (R164). -/
theorem msgByte_packBits (bits : Vector Symbol 112) (n : Nat) (hn : n < 14) :
    msgByte (packBits bits) n = packByte bits n := by
  rw [packBits, msgByte_msgOfBytes _ (by simp) n hn]
  simp [hn]

/-- The latched length is one of the two (R29). -/
theorem lengthOf_cases (df : BitVec 5) (cfg : Parameters := Config.defaults) :
    lengthOf df cfg = 112 ∨ lengthOf df cfg = 56 := by
  unfold lengthOf; split <;> simp [Config.longBits, Config.shortBits]

theorem ofNat_lengthOf_cases (df : BitVec 5) (cfg : Parameters := Config.defaults) :
    BitVec.ofNat 7 (lengthOf df cfg) = 56 ∨ BitVec.ofNat 7 (lengthOf df cfg) = 112 := by
  rcases lengthOf_cases df cfg with h | h <;> rw [h] <;> simp

/-- The slicer, then the latched length (R162, R164, R165). -/
theorem latchLength_writeSlice (j : Nat) (s : State) : latchLength (writeSlice j s) = latchedSlice s.mag j s := by
  unfold writeSlice latchedSlice; rfl

/-! ### Cache (R211, R212) -/

theorem cacheHas_iff (c : Cache) (addr : Word24) (now : Ticks) (cfg : Parameters := Config.defaults) :
    cacheHas c addr now cfg = true ↔
      ∃ seen, lookupAt c addr.toNat = some seen ∧ now.toNat - seen.toNat ≤ cfg.ttlTicks := by
  unfold cacheHas
  cases h : lookupAt c addr.toNat with
  | none => simp
  | some seen => simp [cacheAge]

/-- A lookup leaves every entry as it was, but for the one looked up, which it evicts when it is stale. -/
theorem lookupAt_cacheAfterLookup (c : Cache) (addr : Word24) (now : Ticks) (a : Nat)
    (cfg : Parameters := Config.defaults) :
    lookupAt (cacheAfterLookup c addr now cfg) a =
      if a = addr.toNat ∧ cacheHas c addr now cfg = false then none else lookupAt c a := by
  unfold cacheAfterLookup cacheHas
  cases h : lookupAt c addr.toNat with
  | none => by_cases ha : a = addr.toNat <;> simp_all
  | some seen =>
    by_cases hs : cacheAge now seen > cfg.ttlTicks
    · simp only [hs, if_true, lookupAt_eraseAt]
      by_cases ha : a = addr.toNat <;> simp [ha]
    · simp [hs]

theorem lookupAt_cacheInsert (c : Cache) (addr : Word24) (now : Ticks) (a : Nat) :
    lookupAt (cacheInsert c addr now) a = if a = addr.toNat then some now else lookupAt c a :=
  lookupAt_insertAt _ _ _

theorem rising_cacheAfterLookup {c : Cache} (h : rising c) (addr : Word24) (now : Ticks)
    (cfg : Parameters := Config.defaults) : rising (cacheAfterLookup c addr now cfg) := by
  unfold cacheAfterLookup
  split
  · exact h
  · split
    · exact rising_eraseAt h _
    · exact h

theorem rising_cacheInsert {c : Cache} (h : rising c) (addr : Word24) (now : Ticks) :
    rising (cacheInsert c addr now) := rising_insertAt h _ _

/-- A lookup and an insertion keep every address inside the cache. -/
theorem cacheAfterLookup_bounded {c : Cache} {cap : Nat} (h : ∀ e ∈ c, e.1 < cap) (addr : Word24) (now : Ticks)
    (cfg : Parameters := Config.defaults) : ∀ e ∈ cacheAfterLookup c addr now cfg, e.1 < cap := by
  unfold cacheAfterLookup
  split
  · exact h
  · split
    · exact fun e he => h e (List.mem_of_mem_filter he)
    · exact h

theorem cacheInsert_bounded {c : Cache} (h : ∀ e ∈ c, e.1 < Config.cacheCap) (addr : Word24) (now : Ticks) :
    ∀ e ∈ cacheInsert c addr now, e.1 < Config.cacheCap := by
  intro e he
  rcases mem_insertAt he with rfl | he
  · exact addr.isLt
  · exact h e he

/-! ### Validation (R193) -/

/-- Validation writes MSG and CACHE only. -/
theorem validateMsg_writes (now : Ticks) (s : State) (cfg : Parameters := Config.defaults) :
    (validateMsg now s cfg).1 =
      { s with msg := (validateMsg now s cfg).1.msg, cache := (validateMsg now s cfg).1.cache } := rfl

/-- The four ways the first part of the flow can end. -/
theorem correctMessage_cases (M : Msg) (df0 : BitVec 5) (bits : Nat) (cfg : Parameters := Config.defaults) :
    (validMsg M bits cfg = true ∧ correctMessage M df0 bits cfg = (M, { valid := true, path := 1 })) ∨
    (validMsg M bits cfg = false ∧ isFixFormat df0 = true ∧ ∃ p, fixOne M bits cfg = some p ∧
      correctMessage M df0 bits cfg = (flipBit M p, { valid := true, path := 2 })) ∨
    (validMsg M bits cfg = false ∧ isFixFormat df0 = true ∧ fixOne M bits cfg = none ∧
      ∃ p r, fixTwo M bits cfg = some (p, r) ∧
        correctMessage M df0 bits cfg = (flipBit (flipBit M p) r, { valid := true, path := 3 })) ∨
    (validMsg M bits cfg = false ∧ (isFixFormat df0 = true → fixOne M bits cfg = none ∧ fixTwo M bits cfg = none) ∧
      correctMessage M df0 bits cfg = (M, { valid := false, path := 0 })) := by
  unfold correctMessage
  cases hv : validMsg M bits cfg with
  | true => simp
  | false =>
    cases hf : isFixFormat df0 with
    | false => simp
    | true =>
      cases h1 : fixOne M bits cfg with
      | some p => simp
      | none =>
        cases h2 : fixTwo M bits cfg with
        | some q => obtain ⟨p, r⟩ := q; simp
        | none => simp

/-- FIXONE answers a position inside the message whose flip is valid, with none below it. -/
theorem fixOne_some {M : Msg} {bits p : Nat} {cfg : Parameters} (h : fixOne M bits cfg = some p) :
    p < bits ∧ validMsg (flipBit M p) bits cfg = true ∧ ∀ p' < p, validMsg (flipBit M p') bits cfg = false := by
  unfold fixOne at h
  rw [List.find?_range_eq_some] at h
  obtain ⟨h1, h2, h3⟩ := h
  exact ⟨List.mem_range.1 h2, h1, fun p' hp => by simpa using h3 p' hp⟩

/-- FIXTWO answers an ordered pair inside the message whose flips are valid. -/
theorem fixTwo_some {M : Msg} {bits p r : Nat} {cfg : Parameters} (h : fixTwo M bits cfg = some (p, r)) :
    p < r ∧ r < bits ∧ validMsg (flipBit (flipBit M p) r) bits cfg = true := by
  unfold fixTwo at h
  obtain ⟨q, -, hq⟩ := List.exists_of_findSome?_eq_some h
  obtain ⟨r', hr', heq⟩ := Option.map_eq_some_iff.1 hq
  obtain ⟨rfl, rfl⟩ := Prod.mk.inj heq
  unfold fixTwoInner at hr'
  have hmem := List.mem_range'_1.1 (List.mem_of_find?_eq_some hr')
  exact ⟨by omega, by omega, by simpa using List.find?_some hr'⟩

end Sys2Proof.Machine
end

