-- ==== Sys2Proof/Laws/Sequencer.lean ====
section
/-! SUPPORT. What one candidate and one scan can do (R226 to R233): the state they do not touch, and how OUTQ grows. -/

namespace Sys2Proof.Machine

/-- The state that no candidate touches. -/
structure ScanFrame (s t : State) : Prop where
  chunk : t.chunk = s.chunk
  ptr : t.ptr = s.ptr
  chunkLen : t.chunkLen = s.chunkLen
  magLen : t.magLen = s.magLen
  ts : t.ts = s.ts
  out : t.out = s.out
  fatal : t.fatal = s.fatal
  fatalCause : t.fatalCause = s.fatalCause
  inputs : t.inputs = s.inputs
  rsp : t.rsp = s.rsp

theorem ScanFrame.refl (s : State) : ScanFrame s s := by constructor <;> rfl

theorem ScanFrame.trans {s t u : State} (h : ScanFrame s t) (g : ScanFrame t u) : ScanFrame s u where
  chunk := g.chunk.trans h.chunk
  ptr := g.ptr.trans h.ptr
  chunkLen := g.chunkLen.trans h.chunkLen
  magLen := g.magLen.trans h.magLen
  ts := g.ts.trans h.ts
  out := g.out.trans h.out
  fatal := g.fatal.trans h.fatal
  fatalCause := g.fatalCause.trans h.fatalCause
  inputs := g.inputs.trans h.inputs
  rsp := g.rsp.trans h.rsp

/-- What one candidate appends to OUTQ, with its outcome. -/
def Appends (s t : State) (o : CandidateOutcome) : Prop :=
  if o = .accepted then ∃ r, t.outq = s.outq ++ [r] else t.outq = s.outq

/-! ### One candidate -/

theorem latchHigh_frame (v : PreambleVerdict) (s : State) :
    ScanFrame s (latchHigh v s) ∧ (latchHigh v s).outq = s.outq ∧ (latchHigh v s).mag = s.mag := by
  unfold latchHigh
  split
  · exact ⟨by constructor <;> rfl, rfl, rfl⟩
  · exact ⟨.refl s, rfl, rfl⟩

theorem judgeMessage_spec (s : State) (cfg : Parameters := Config.defaults) :
    ScanFrame s (judgeMessage s cfg).1 ∧ (judgeMessage s cfg).1.mag = s.mag ∧ (judgeMessage s cfg).1.j = s.j ∧
      (judgeMessage s cfg).1.mode = s.mode ∧ (judgeMessage s cfg).1.msgBits = s.msgBits ∧
      (judgeMessage s cfg).2 ≠ .noPreamble ∧ Appends s (judgeMessage s cfg).1 (judgeMessage s cfg).2 := by
  unfold judgeMessage
  split
  · exact ⟨.refl s, rfl, rfl, rfl, rfl, by simp, by simp [Appends]⟩
  · simp only
    split
    · exact ⟨by constructor <;> rfl, rfl, rfl, rfl, rfl, by simp, by simp [Appends, pushRecord, validateMsg]⟩
    · exact ⟨by constructor <;> rfl, rfl, rfl, rfl, rfl, by simp, by simp [Appends, validateMsg]⟩

theorem judgeSlice_spec (j : Nat) (s : State) (cfg : Parameters := Config.defaults) :
    ScanFrame s (judgeSlice j s cfg).1 ∧ (judgeSlice j s cfg).1.mag = s.mag ∧ (judgeSlice j s cfg).1.j = s.j ∧
      (judgeSlice j s cfg).1.mode = s.mode ∧
      (judgeSlice j s cfg).1.msgBits = BitVec.ofNat 7 (lengthOf (formatField s.msg) cfg) ∧
      (judgeSlice j s cfg).2 ≠ .noPreamble ∧ Appends s (judgeSlice j s cfg).1 (judgeSlice j s cfg).2 := by
  have hl : ScanFrame s (latchLength s cfg) := by constructor <;> rfl
  unfold judgeSlice
  simp only
  split
  · obtain ⟨h1, h2, h3, h4, h5, h6, h7⟩ := judgeMessage_spec (latchLength s cfg) cfg
    exact ⟨hl.trans h1, h2, h3, h4, h5, h6, h7⟩
  · exact ⟨hl, rfl, rfl, rfl, rfl, by simp, by simp [Appends]⟩

theorem normalCandidate_spec (s : State) (cfg : Parameters := Config.defaults) :
    ScanFrame s (normalCandidate s cfg).1 ∧ (normalCandidate s cfg).1.mag = s.mag ∧ (normalCandidate s cfg).1.j = s.j ∧
      (normalCandidate s cfg).1.mode = s.mode ∧ Appends s (normalCandidate s cfg).1 (normalCandidate s cfg).2 ∧
      ((normalCandidate s cfg).2 = .noPreamble ∨
        (normalCandidate s cfg).1.msgBits = 56 ∨ (normalCandidate s cfg).1.msgBits = 112) := by
  obtain ⟨hf, ho, hm⟩ := latchHigh_frame (preamble s.mag s.j.toNat) s
  unfold normalCandidate
  simp only
  split
  · obtain ⟨h1, h2, h3, h4, h5, -, h7⟩ :=
      judgeSlice_spec s.j.toNat (writeSlice s.j.toNat (latchHigh (preamble s.mag s.j.toNat) s)) cfg
    refine ⟨hf.trans (ScanFrame.trans (by constructor <;> simp) h1), by rw [h2]; simp,
      by rw [h3]; simp, by rw [h4]; simp, ?_, .inr ?_⟩
    · simpa [Appends, ho] using h7
    · rw [h5]
      exact ofNat_lengthOf_cases _ cfg
  · exact ⟨hf, hm, by simp, by simp, by simp [Appends], .inl rfl⟩

/-- A retry reads the same samples after its restore as before it (R229). -/
theorem read_retrySlice (j : Nat) (s : State) (a : Nat) : (retrySlice j s).mag.read a = s.mag.read a := by
  have haux : ∀ x < 224, ((saveRegion j s).aux).read x = s.mag.read (j + 16 + x) := by
    intro x hx
    change (s.aux.writeBlock 0 (s.mag.readBlock (j + 16) 224)).read x = _
    rw [Memory.read_writeBlock, Memory.length_readBlock, if_pos ⟨Nat.zero_le _, by omega⟩, Nat.sub_zero]
    exact Memory.getD_readBlock _ _ _ hx
  have hcor : ∀ a, a < j + 16 ∨ j + 240 ≤ a → ((correctRegion j (saveRegion j s)).mag).read a = s.mag.read a := by
    intro a ha
    rw [correctRegion_mag]
    split
    · simpa only [saveRegion_mag] using read_correct_outside s.mag j a ha
    · rfl
  have hmag : (retrySlice j s).mag =
      (correctRegion j (saveRegion j s)).mag.writeBlock (j + 16) ((saveRegion j s).aux.readBlock 0 224) := by
    simp [retrySlice, restoreRegion, Config.preambleSamples, Config.auxCap]
  rw [hmag, Memory.read_writeBlock, Memory.length_readBlock]
  split
  · rename_i h
    rw [Memory.getD_readBlock _ _ _ (by omega), Nat.zero_add, haux _ (by omega)]
    congr 1; omega
  · exact hcor a (by omega)

theorem retrySlice_frame (j : Nat) (s : State) :
    ScanFrame s (retrySlice j s) ∧ (retrySlice j s).outq = s.outq ∧ (retrySlice j s).j = s.j ∧
      (retrySlice j s).mode = s.mode := by
  have h1 : ScanFrame s (correctRegion j (saveRegion j s)) := by
    constructor <;> rfl
  exact ⟨h1.trans (by constructor <;> simp [retrySlice]), by simp [retrySlice], by simp [retrySlice],
    by simp [retrySlice]⟩

theorem retryCandidate_spec (s : State) (cfg : Parameters := Config.defaults) :
    ScanFrame s (retryCandidate s cfg).1 ∧ (∀ a, (retryCandidate s cfg).1.mag.read a = s.mag.read a) ∧
      (retryCandidate s cfg).1.j = s.j ∧ (retryCandidate s cfg).1.mode = s.mode ∧
      Appends s (retryCandidate s cfg).1 (retryCandidate s cfg).2 ∧
      ((retryCandidate s cfg).1.msgBits = 56 ∨ (retryCandidate s cfg).1.msgBits = 112) := by
  obtain ⟨hf, ho, hj, hm⟩ := retrySlice_frame s.j.toNat s
  obtain ⟨h1, h2, h3, h4, h5, -, h7⟩ := judgeSlice_spec s.j.toNat (retrySlice s.j.toNat s) cfg
  unfold retryCandidate
  refine ⟨hf.trans h1, fun a => by rw [h2]; exact read_retrySlice _ _ _, h3.trans hj, h4.trans hm, ?_, ?_⟩
  · simpa [Appends, ho] using h7
  · rw [h5]
    exact ofNat_lengthOf_cases _ cfg

/-- One candidate: what it leaves alone, its place, and what it appends. -/
theorem candidate_spec (s : State) (cfg : Parameters := Config.defaults) :
    ScanFrame s (candidate s cfg).1 ∧ (candidate s cfg).1.j = s.j ∧ (candidate s cfg).1.mode = s.mode ∧
      Appends s (candidate s cfg).1 (candidate s cfg).2 ∧
      ((candidate s cfg).2 = .noPreamble ∨ (candidate s cfg).1.msgBits = 56 ∨ (candidate s cfg).1.msgBits = 112) := by
  unfold candidate
  split
  · obtain ⟨h1, -, h3, h4, h5, h6⟩ := normalCandidate_spec s cfg
    exact ⟨h1, h3, h4, h5, h6⟩
  · obtain ⟨h1, -, h3, h4, h5, h6⟩ := retryCandidate_spec s cfg
    exact ⟨h1, h3, h4, h5, .inr h6⟩

/-! ### The loop -/

/-- What a scan leaves alone; OUTQ grows at its end by as many records as the count grows. -/
theorem scanLoop_frame (n : Nat) (s : State) (count : Nat) (cfg : Parameters := Config.defaults) :
    ScanFrame s (scanLoop n s count cfg).1 ∧
      ∃ new, (scanLoop n s count cfg).1.outq = s.outq ++ new ∧ (scanLoop n s count cfg).2 = count + new.length := by
  induction n generalizing s count with
  | zero => exact ⟨.refl s, [], by simp [scanLoop]⟩
  | succ n ih =>
    simp only [scanLoop]
    split
    · obtain ⟨h1, -, -, h4, -⟩ := candidate_spec s cfg
      obtain ⟨hf, new, hq, hc⟩ := ih (applyTransition (candidate s cfg).2 (candidate s cfg).1)
        (if (candidate s cfg).2 = .accepted then count + 1 else count)
      refine ⟨(h1.trans (by constructor <;> rfl)).trans hf, ?_⟩
      rw [applyTransition_outq] at hq
      by_cases ho : (candidate s cfg).2 = .accepted
      · obtain ⟨r, hr⟩ : ∃ r, (candidate s cfg).1.outq = s.outq ++ [r] := by simpa [Appends, ho] using h4
        refine ⟨r :: new, by rw [hq, hr]; simp, ?_⟩
        rw [hc]; simp [ho]; omega
      · have hr : (candidate s cfg).1.outq = s.outq := by simpa [Appends, ho] using h4
        exact ⟨new, by rw [hq, hr], by rw [hc]; simp [ho]⟩
    · exact ⟨.refl s, [], by simp⟩

theorem runScan_frame (s : State) (cfg : Parameters := Config.defaults) :
    ScanFrame s (runScan s cfg).1 ∧ ∃ new, (runScan s cfg).1.outq = s.outq ++ new ∧ (runScan s cfg).2 = new.length := by
  have h0 : ScanFrame s (startScan s) := by constructor <;> rfl
  rw [runScan]
  obtain ⟨h, new, hq, hc⟩ := scanLoop_frame (2 * (s.magLen.toNat - Config.fullLen)) (startScan s) 0 cfg
  exact ⟨h0.trans h, new, hq, by rw [hc, Nat.zero_add]⟩

end Sys2Proof.Machine
end

