-- ==== Sys2Proof/Tests/Slice0.lean ====
section
/-! SUPPORT. Tests on small states, and a witness for the hypotheses of every statement that has some. Expected values are
the spec's: the words and answers of 95_test_vectors.md and of the examples in the command rules. -/

namespace Sys2Proof.Tests

-- Each of these small kernel checks would otherwise hold a thread of its own while it waits for its turn.
set_option Elab.async false

open Sys2Proof.Machine

/-- The result of a step is a next state with this property. -/
def after (r : Result) (p : State → Bool) : Bool :=
  match r with
  | .next t => p t
  | .fault _ => false
  | .refused _ => false

/-- The step answers OK with this value. -/
def answers (r : Result) (v : Nat) : Bool := after r fun t => t.rsp == okAnswer v

/-- The step answers this error. -/
def fails (r : Result) (st : Status) : Bool := after r fun t => t.rsp == errorAnswer st

/-- The reset state with these samples in MAG and MAGLEN their number. -/
def withSamples (l : List Nat) : State :=
  { State.reset with mag := listFrom 0 (l.map (BitVec.ofNat 16)), magLen := BitVec.ofNat 24 l.length }

/-- The reset state with this message. -/
def holding (M : Msg) : State := { State.reset with msg := M }

/-- The reset state with FATAL set. -/
def stopped : State := { State.reset with fatal := true, fatalCause := 0x03 }

/-- The reset state with its output queue full. -/
def fullQueue : State := { State.reset with outq := List.replicate 4096 OutRecord.zero }

/-- F17 and F20 of 95_test_vectors.md. -/
def f17 : Msg := 0x8D4840D6202CC371C32CE0576098
def f20 : Msg := 0xA0001838202CC371C32CE0F15CF5

/-- F11 of 95_test_vectors.md, in bytes 0 to 6. -/
def f11 : Msg := 0x5D4840D6F8740F00000000000000

/-- F11 with its bits 33, 40 and 54 flipped: three flips are beyond FIX1 and FIX2. -/
def f11Bad : Msg := flipBit (flipBit (flipBit f11 33) 40) 54

/-- 16 silent samples and then these pairs, then silence up to 240 samples. -/
def dataPairs (l : List (Nat × Nat)) : State :=
  withSamples (List.replicate 16 0 ++ l.flatMap (fun d => [d.1, d.2]) ++ List.replicate (224 - 2 * l.length) 0)

/-! ### WellFormed: an ill-formed term for each check, which the check refuses (R70, R93) -/

theorem test_illFormed_rdreg_reserved : Instr.wellFormed (.rdreg 13) = false := by decide
theorem test_illFormed_rdreg_above : Instr.wellFormed (.rdreg 22) = false := by decide
theorem test_illFormed_setlen : Instr.wellFormed (.setlen 262145) = false := by decide
theorem test_illFormed_setmlen : Instr.wellFormed (.setmlen 131073) = false := by decide
theorem test_illFormed_rdbit : Instr.wellFormed (.rdbit 112) = false := by decide
theorem test_illFormed_lutrd_i : Instr.wellFormed (.lutrd 129 0) = false := by decide
theorem test_illFormed_lutrd_q : Instr.wellFormed (.lutrd 0 129) = false := by decide
theorem test_illFormed_prechk : Instr.wellFormed (.prechk 131058) = false := by decide
theorem test_illFormed_phdet_zero : Instr.wellFormed (.phdet 0) = false := by decide
theorem test_illFormed_phdet_end : Instr.wellFormed (.phdet 131062) = false := by decide
theorem test_illFormed_phcor : Instr.wellFormed (.phcor 130834) = false := by decide
theorem test_illFormed_slice : Instr.wellFormed (.slice 130833) = false := by decide
theorem test_illFormed_qual_bits : Instr.wellFormed (.qual 0 57) = false := by decide
theorem test_illFormed_qual_end : Instr.wellFormed (.qual 130945 56) = false := by decide
theorem test_illFormed_crc : Instr.wellFormed (.crc 0) = false := by decide
theorem test_illFormed_fix1 : Instr.wellFormed (.fix1 57) = false := by decide
theorem test_illFormed_fix2 : Instr.wellFormed (.fix2 111) = false := by decide
theorem test_illFormed_apchk : Instr.wellFormed (.apchk 255) = false := by decide
theorem test_illFormed_crctab : Instr.wellFormed (.crctab 112) = false := by decide

/-- The last operand values that are well formed. -/
theorem test_wellFormed_boundaries :
    ([.rdreg 12, .rdreg 21, .setlen 262144, .setmlen 131072, .rdbit 111, .lutrd 128 128, .prechk 131057, .phdet 1,
      .phdet 131061, .phcor 130833, .slice 130832, .qual 130944 56, .qual 130832 112, .crc 56, .crctab 111] :
        List Instr).all Instr.wellFormed = true := by decide

/-! ### Decoding: one word for every command, written out from R91, R92 and R97 -/

theorem test_decode_nop : decode 0x0000000000000000 = .ok .nop := by rfl
theorem test_decode_sreset : decode 0x0100000000000000 = .ok .sreset := by rfl
theorem test_decode_rdreg : decode 0x020000000000000C = .ok (.rdreg 12) := by rfl
theorem test_decode_setptr : decode 0x030000000000001D = .ok (.setptr 29) := by rfl
theorem test_decode_wrb : decode 0x04000000000000E3 = .ok (.wrb 227) := by rfl
theorem test_decode_setlen : decode 0x0500000000040001 = .ok (.setlen 262145) := by rfl
theorem test_decode_wrm : decode 0x06000000000003E8 = .ok (.wrm 1000) := by rfl
theorem test_decode_setmlen : decode 0x07000000000000FA = .ok (.setmlen 250) := by rfl
theorem test_decode_rdmag : decode 0x0800000000000000 = .ok .rdmag := by rfl
theorem test_decode_setts : decode 0x090000003B9ACA00 = .ok (.setts 1000000000) := by rfl
theorem test_decode_ldm0 : decode 0x0A8D4840D6202CC3 = .ok (.ldm0 0x8D4840D6202CC3) := by rfl
theorem test_decode_ldm1 : decode 0x0B71C32CE0576098 = .ok (.ldm1 0x71C32CE0576098) := by rfl
theorem test_decode_rdm0 : decode 0x0C00000000000000 = .ok .rdm0 := by rfl
theorem test_decode_rdm1 : decode 0x0D00000000000000 = .ok .rdm1 := by rfl
theorem test_decode_rdbit : decode 0x0E0000000000006F = .ok (.rdbit 111) := by rfl
theorem test_decode_pop : decode 0x0F00000000000000 = .ok .pop := by rfl
theorem test_decode_rdo0 : decode 0x1000000000000000 = .ok .rdo0 := by rfl
theorem test_decode_rdo1 : decode 0x1100000000000000 = .ok .rdo1 := by rfl
theorem test_decode_rdots : decode 0x1200000000000000 = .ok .rdots := by rfl
theorem test_decode_rdb : decode 0x1300000000000000 = .ok .rdb := by rfl
theorem test_decode_lutrd : decode 0x2000000000006432 = .ok (.lutrd 100 50) := by rfl
theorem test_decode_magvec : decode 0x2100000000000000 = .ok .magvec := by rfl
theorem test_decode_prechk : decode 0x3000000000000005 = .ok (.prechk 5) := by rfl
theorem test_decode_phdet : decode 0x3100000000000001 = .ok (.phdet 1) := by rfl
theorem test_decode_phcor : decode 0x3200000000ABCDEF = .ok (.phcor 0xABCDEF) := by rfl
theorem test_decode_slice : decode 0x4000000000000005 = .ok (.slice 5) := by rfl
theorem test_decode_qual : decode 0x4100000070000005 = .ok (.qual 5 112) := by rfl
theorem test_decode_crc : decode 0x5000000000000070 = .ok (.crc 112) := by rfl
theorem test_decode_fix1 : decode 0x5100000000000038 = .ok (.fix1 56) := by rfl
theorem test_decode_fix2 : decode 0x5200000000000070 = .ok (.fix2 112) := by rfl
theorem test_decode_apchk : decode 0x5300000000000070 = .ok (.apchk 112) := by rfl
theorem test_decode_validate : decode 0x5400000000000000 = .ok .validate := by rfl
theorem test_decode_crctab : decode 0x5500000000000057 = .ok (.crctab 87) := by rfl
theorem test_decode_ccont : decode 0x60000000004840D6 = .ok (.ccont 0x4840D6) := by rfl
theorem test_decode_cins : decode 0x61000000004840D6 = .ok (.cins 0x4840D6) := by rfl
theorem test_decode_demod : decode 0x7000000000000000 = .ok .demod := by rfl
theorem test_decode_scan : decode 0x7100000000000000 = .ok .scan := by rfl

/-- QUAL 5, 112 field by field: opcode, 24 reserved bits, `bits`, `j` (R92, format JB). -/
theorem test_decode_qual_fields :
    decode (0x41#8 ++ 0#24 ++ 112#8 ++ 5#24) = .ok (.qual 5 112) := by rfl

/-- LUTRD 3, 4 field by field: opcode, 40 reserved bits, `i`, `q` (R92, format IQ). -/
theorem test_decode_lutrd_fields : decode (0x20#8 ++ 0#40 ++ 3#8 ++ 4#8) = .ok (.lutrd 3 4) := by rfl

/-- A reserved operand bit makes NOP illegal; so does bit 32 for QUAL (R294). -/
theorem test_decode_reserved : decode 0x0000000000000001 = .error (.reservedOperandBits 0x00) ∧
    decode 0x4100000139000000 = .error (.reservedOperandBits 0x41) := ⟨by rfl, by rfl⟩

/-- The first and the last opcode of every reserved gap (R99). -/
theorem test_decode_gaps :
    ([0x14, 0x1F, 0x22, 0x2F, 0x33, 0x3F, 0x42, 0x4F, 0x56, 0x5F, 0x62, 0x6F, 0x72, 0xFF] : List (BitVec 8)).all
      (fun op => decide (decode (commandWord op 0) = .error (.undefinedOpcode op))) = true := by decide +kernel

/-- The table's numbering of bits: bit 0 is the least significant bit of the one 64-bit word. -/
theorem test_decodeTableWord : decodeTableWord 64 0x2000000000000304 = some (.lutrd 3 4) := by rfl

/-- A word placed for fetching is the next command that a step runs. -/
theorem test_withFetchWord : after (step (State.reset.withFetchWord 64 0x0300000000ABCDEF))
    (fun t => t.ptr == 0xABCDEF && t.inputs == []) = true := by decide +kernel

/-! ### Host access and system -/

theorem test_nop : answers (exec .nop stopped) 0 = true := by decide +kernel
theorem test_sreset : after (exec .sreset { stopped with chunkLen := 3 })
    (fun t => t == { State.reset with rsp := okAnswer 0 }) = true := by decide +kernel
theorem test_rdreg_status : answers (exec (.rdreg 0) { stopped with outq := [OutRecord.zero] }) 0x303 = true := by
  decide +kernel
theorem test_rdreg_constant : answers (exec (.rdreg 19) State.reset) 60000000 = true := by decide +kernel
theorem test_setptr : after (exec (.setptr 0xFFFFFF) State.reset) (fun t => t.ptr == 0xFFFFFF) = true := by
  decide +kernel
theorem test_wrb : after (exec (.wrb 127) { State.reset with chunk := [(0, 227)], ptr := 1 })
    (fun t => t.chunk == [(0, 227), (1, 127)] && t.ptr == 2) = true := by decide +kernel
theorem test_wrb_last : after (exec (.wrb 0) { State.reset with chunk := [(262143, 9)], ptr := 262143 })
    (fun t => t.chunk == [] && t.ptr == 262144) = true := by decide +kernel
theorem test_setlen : after (exec (.setlen 600) State.reset) (fun t => t.chunkLen == 600) = true := by decide +kernel
theorem test_setlen_range : fails (exec (.setlen 262145) State.reset) .range = true := by decide +kernel
theorem test_wrm : after (exec (.wrm 50) { State.reset with mag := [(0, 1000)], ptr := 1 })
    (fun t => t.mag == [(0, 1000), (1, 50)] && t.ptr == 2 && t.magLen == 0) = true := by decide +kernel
theorem test_setmlen : after (exec (.setmlen 16) State.reset) (fun t => t.magLen == 16) = true := by decide +kernel
theorem test_rdmag : answers (exec .rdmag (withSamples [36000, 0])) 36000 = true := by decide +kernel
theorem test_rdmag_range : after (exec .rdmag { withSamples [36000, 0] with ptr := 2 })
    (fun t => t.rsp == errorAnswer .range && t.ptr == 2) = true := by decide +kernel
theorem test_setts : after (exec (.setts 1000000000) State.reset) (fun t => t.ts == 1000000000) = true := by
  decide +kernel
theorem test_ldm0 : after (exec (.ldm0 0x8D4840D6202CC3) (holding 0x71C32CE0576098))
    (fun t => t.msg == f17) = true := by decide +kernel
theorem test_ldm1 : after (exec (.ldm1 0x71C32CE0576098) (holding 0x8D4840D6202CC300000000000000))
    (fun t => t.msg == f17) = true := by decide +kernel
theorem test_rdm0 : answers (exec .rdm0 (holding f17)) 0x8D4840D6202CC3 = true := by decide +kernel
theorem test_rdm1 : answers (exec .rdm1 (holding f17)) 0x71C32CE0576098 = true := by decide +kernel
theorem test_rdbit : answers (exec (.rdbit 111) { State.reset with bits := Vector.replicate 112 .ambiguous }) 2 = true := by
  decide +kernel
theorem test_pop : after
    (exec .pop { State.reset with outq := [⟨f17, true, 17, true, 0x4840D6, 1000000000⟩, OutRecord.zero] })
    (fun t => t.rsp == okAnswer 0x634840D6 && t.out.bytes == f17 && t.outq == [OutRecord.zero]) = true := by
  decide +kernel
theorem test_pop_empty : fails (exec .pop stopped) .empty = true := by decide +kernel
theorem test_rdo0 : answers (exec .rdo0 { stopped with out := ⟨f17, true, 17, true, 0, 0⟩ }) 0x8D4840D6202CC3 = true := by
  decide +kernel
theorem test_rdo1 : answers (exec .rdo1 { stopped with out := ⟨f17, true, 17, true, 0, 0⟩ }) 0x71C32CE0576098 = true := by
  decide +kernel
theorem test_rdots : answers (exec .rdots { stopped with out := ⟨f17, true, 17, true, 0, 1000000000⟩ }) 1000000000 = true := by
  decide +kernel
theorem test_rdb : after (exec .rdb { State.reset with chunk := [(0, 227), (1, 127)], chunkLen := 2, ptr := 1 })
    (fun t => t.rsp == okAnswer 127 && t.ptr == 2) = true := by decide +kernel

/-! ### Magnitude, preamble, phase -/

theorem test_lutrd_rounds : answers (exec (.lutrd 2 1) State.reset) 805 = true := by decide +kernel
theorem test_lutrd_range : fails (exec (.lutrd 129 0) State.reset) .range = true := by decide +kernel
theorem test_magvec : after
    (exec .magvec { State.reset with chunk := [(0, 227), (1, 127), (2, 127), (3, 127)], chunkLen := 4 })
    (fun t => t.rsp == okAnswer 2 && t.mag == [(0, 36000)] && t.magLen == 2) = true := by decide +kernel
theorem test_magvec_odd : after (exec .magvec { State.reset with chunkLen := 599 })
    (fun t => t.rsp == errorAnswer .chunkLen && t.fatal && t.fatalCause == 0x03 && t.magLen == 0) = true := by
  decide +kernel
theorem test_prechk : answers (exec (.prechk 0)
    (withSamples [1000, 50, 1000, 50, 50, 50, 50, 1000, 50, 1000, 50, 50, 50, 50, 50, 50])) 0x29A0003 = true := by
  decide +kernel
theorem test_prechk_level : after (exec (.prechk 0)
    (withSamples [600, 0, 600, 0, 0, 0, 0, 600, 0, 600, 0, 0, 0, 400, 0, 0]))
    (fun t => t.rsp == okAnswer 0x1900002 && t.high == 400) = true := by decide +kernel
theorem test_phdet_late : answers (exec (.phdet 1)
    (withSamples [0, 900, 0, 900, 301, 0, 0, 301, 900, 0, 900, 0])) 1 = true := by decide +kernel
theorem test_phdet_early : answers (exec (.phdet 1)
    (withSamples [2, 900, 5, 900, 0, 0, 0, 0, 900, 0, 900, 0])) 0xFFFFFFFFFFFFFF = true := by decide +kernel
theorem test_phcor : after (exec (.phcor 0)
    (dataPairs [(1000, 200), (800, 900), (60000, 100), (52428, 0), (300, 300), (5, 7)]))
    (fun t => t.mag.readBlock 16 14 == [1000, 200, 1000, 900, 9464, 100, 65535, 0, 375, 300, 6, 7, 0, 0]) = true := by
  decide +kernel
theorem test_phcor_range : fails (exec (.phcor 2) { State.reset with magLen := 240 }) .range = true := by decide +kernel

/-! ### Slicer and quality -/

theorem test_slice : after (exec (.slice 0)
    (dataPairs [(1000, 0), (0, 1000), (500, 300), (300, 500), (400, 145), (400, 144), (0, 0), (700, 700), (256, 0),
      (255, 0), (0, 255), (0, 256)]))
    (fun t => t.rsp == okAnswer 0x30 && t.msg == 0x87E0000000000000000000000000 && t.errors == 0) = true := by
  decide +kernel
theorem test_slice_ambiguous : after (exec (.slice 0) (dataPairs [(700, 700), (100, 0), (0, 300), (900, 0)]))
    (fun t => t.rsp == okAnswer 0x113 && t.msg == 0x9FFFFFFFFFFFFFFFFFFFFFFFFFFF && t.msgBits == 56) = true := by
  decide +kernel
theorem test_qual : answers (exec (.qual 0 112)
    (dataPairs (List.replicate 111 (2550, 0) ++ [(2549, 0)]))) 0x9F5 = true := by decide +kernel
theorem test_qual_bits : fails (exec (.qual 0 57) State.reset) .bits = true := by decide +kernel

/-! ### Checksum and corrector -/

theorem test_crc : answers (exec (.crc 112) (holding f20)) 0xF15CF5B91C23 = true := by decide +kernel
theorem test_crc_short : answers (exec (.crc 56) (holding f11)) 0xF8740FF8740F = true := by decide +kernel
theorem test_fix1 : after (exec (.fix1 112) (holding 0x8D4840D6212CC371C32CE0576098))
    (fun t => t.rsp == okAnswer 0x10027 && t.msg == f17) = true := by decide +kernel
theorem test_fix2 : after (exec (.fix2 56) (holding (flipBit (flipBit f11 1) 55)))
    (fun t => t.rsp == okAnswer 0x13701 && t.msg == f11) = true := by decide +kernel
theorem test_apchk : answers (exec (.apchk 112)
    { holding f20 with cache := [(0x4840D6, 1000000000)], ts := 1030000000 }) 0x14840D6 = true := by decide +kernel
theorem test_apchk_stale : after (exec (.apchk 112)
    { holding f20 with cache := [(0x4840D6, 1000000000)], ts := 1060000001 })
    (fun t => t.rsp == okAnswer 0x4840D6 && t.cache == []) = true := by decide +kernel
theorem test_validate : after (exec .validate { holding 0x8D4840D6212CC371C32CE0576098 with ts := 1000000000 })
    (fun t => t.rsp == okAnswer 0x315 && t.msg == f17 && t.cache == [(0x4840D6, 1000000000)]) = true := by
  decide +kernel
theorem test_crctab : answers (exec (.crctab 39) State.reset) 0xDC7AF7 = true := by decide +kernel
theorem test_crctab_zero : answers (exec (.crctab 88) State.reset) 0 = true := by decide +kernel

/-! ### Cache and sequencer -/

theorem test_ccont : answers (exec (.ccont 0x4840D6)
    { State.reset with cache := [(0x4840D6, 5000000)], ts := 64000000 }) 1 = true := by decide +kernel
theorem test_cins : after (exec (.cins 0x4840D6) { State.reset with cache := [(0, 1), (0xFFFFFF, 2)], ts := 5000000 })
    (fun t => t.cache == [(0, 1), (0x4840D6, 5000000), (0xFFFFFF, 2)]) = true := by decide +kernel
theorem test_demod_short : answers (exec .demod
    { State.reset with chunk := [(0, 227), (1, 127), (2, 127), (3, 127)], chunkLen := 4 }) 0 = true := by decide +kernel
theorem test_demod_full : fails (exec .demod { fullQueue with chunkLen := 482 }) .qFull = true := by decide +kernel

/-- The samples of an ideal transmission of a long frame (MAGFRAME of 95_test_vectors.md). -/
def frameSamples (M : Msg) (level : Sample) : List Sample :=
  (List.range 240).map fun a =>
    if a < 16 then (if a = 0 ∨ a = 2 ∨ a = 7 ∨ a = 9 then level else 0)
    else if M.getMsbD ((a - 16) / 2) = decide (a % 2 = 0) then level else 0

/-- F17 at sample 0 of 241, at the least level that passes. -/
def idealF17 : State :=
  { State.reset with mag := listFrom 0 (frameSamples f17 2550), magLen := 241, ts := 77 }

/-- A message of DF 18, which has no correction, with a wrong checksum in its place. -/
def spoiled : State := { idealF17 with mag := listFrom 0 (frameSamples 0x90000000000000000000000000FF 2550) }

/-- The frame with an ambiguous first bit, and as strong as before. -/
def ambiguousF17 : State := { idealF17 with mag := (idealF17.mag.write 17 2550).write 19 65535 }

/-- The same in the retry mode. -/
def retrying (s : State) : State := { s with mode := .retryWithPhaseCorrection }

/-- A retry at J = 1 whose sample before the preamble is not silent: the phase is early. Data bit 2, a 0, is received as
(2600, 2300), which the correction of R146 turns into (2080, 2300): it then repeats data bit 1, a 0 (R162). -/
def earlyF17 : State :=
  { idealF17 with
    mag := (listFrom 0 (1 :: frameSamples f17 3000)).writeBlock 21 [2600, 2300]
    magLen := 242, j := 1, mode := .retryWithPhaseCorrection }

/-- The retry accepts the frame; uncorrected, its format would be 21 and it fails. -/
theorem test_retry : (candidate earlyF17).2 = .accepted ∧
    (candidate { earlyF17 with mode := .scanningNormal }).2 = .failed := by decide +kernel

/-- What SCAN makes of it: one record, the final J, the address in the cache. -/
theorem test_scan : after (exec .scan idealF17)
    (fun t => t.outq == [⟨f17, true, 17, true, 0x4840D6, 77⟩] && t.j == 241 && t.cache == [(0x4840D6, 77)] &&
      t.rsp == okAnswer 0xF1000001) = true := by decide +kernel

/-! ### Witnesses: states and operands that meet the hypotheses of the statements, clause by clause at their boundaries -/

/-- The commands of a host, waiting. -/
def offered (w : PortWord) : State := { State.reset with inputs := [.command w, .reset] }

theorem witness_EncodeInvertsDecode : decode 0x4100000070000005 = .ok (.qual 5 112) := by rfl

theorem witness_StepRunsDecodedCommand :
    (offered 0x2100000000000000).inputs = .command 0x2100000000000000 :: [.reset] ∧
      decode 0x2100000000000000 = .ok .magvec := ⟨rfl, by rfl⟩

theorem witness_IllegalWordAnswersIllegal :
    (offered 0x1400000000000000).inputs = .command 0x1400000000000000 :: [.reset] ∧
      decode 0x1400000000000000 = .error (.undefinedOpcode 0x14) := ⟨rfl, by rfl⟩

theorem witness_StepKeepsInvariant :
    (offered 0x2100000000000000).Inv ∧ ∃ t, step (offered 0x2100000000000000) = .next t :=
  ⟨by decide +kernel, _, rfl⟩

theorem witness_ResetInputResetsTheBlock :
    { stopped with inputs := [.reset, .command 0] }.inputs = .reset :: [.command 0] ∧
      { stopped with inputs := [.resetDuring 0] }.inputs = .resetDuring 0 :: [] := ⟨rfl, rfl⟩

theorem witness_CommandErrorChangesNothing :
    ∃ t, exec (.rdreg 13) State.reset = .next t ∧ t.rsp = some (responseWord .range 0) ∧
      Status.range ≠ .ok ∧ Status.range ≠ .chunkLen := ⟨_, rfl, rfl, by decide, by decide⟩

theorem witness_FatalErrorSetsFatalOnly_raised :
    (∃ t, exec .magvec State.reset = .next t ∧ t.rsp = some (responseWord .chunkLen 0)) ∧
      ∃ t, exec .demod { State.reset with chunkLen := 1 } = .next t ∧ t.rsp = some (responseWord .chunkLen 0) :=
  ⟨⟨_, rfl, rfl⟩, _, rfl, rfl⟩

theorem witness_FatalErrorSetsFatalOnly_lengths :
    State.reset.fatal = false ∧ ({ State.reset with chunkLen := 262143 } : State).chunkLen.toNat % 2 = 1 ∧
      ¬ (({ State.reset with chunkLen := 2 } : State).chunkLen.toNat = 0 ∨
        ({ State.reset with chunkLen := 2 } : State).chunkLen.toNat % 2 = 1) := by decide

theorem witness_FatalRefusesAllButSeven :
    stopped.fatal = true ∧ (∃ k, Instr.rdreg 13 = .rdreg k) ∧
      ¬ (Instr.setts 0 = .nop ∨ Instr.setts 0 = .sreset ∨ (∃ k, Instr.setts 0 = .rdreg k) ∨ Instr.setts 0 = .pop ∨
        Instr.setts 0 = .rdo0 ∨ Instr.setts 0 = .rdo1 ∨ Instr.setts 0 = .rdots) :=
  ⟨rfl, ⟨13, rfl⟩, by simp⟩

theorem witness_OnlyResetLeavesTheFatalState :
    stopped.fatal = true ∧ (∃ t, step stopped = .next t) ∧
      { stopped with inputs := [.command 0x0100000000000000] }.fatal = true ∧
      ∃ t, step { stopped with inputs := [.command 0x0100000000000000] } = .next t ∧ t.fatal = false :=
  ⟨rfl, ⟨_, rfl⟩, rfl, _, rfl, rfl⟩

theorem witness_OnlyTheNamedCommandsWriteRegisters :
    (∃ t, exec (.wrb 7) State.reset = .next t ∧ t.ptr ≠ State.reset.ptr) ∧ Instr.wrb 7 ≠ .sreset :=
  ⟨⟨_, rfl, by decide⟩, by decide⟩

theorem witness_RdregReadsTheRegisterMap :
    (0#8).toNat = 0 ∧ (12#8).toNat = 12 ∧ (16#8).toNat = 16 ∧ (21#8).toNat = 21 ∧
      ∀ k ∈ ([13, 15, 22, 255] : List (BitVec 8)), ¬ (k.toNat ≤ 12 ∨ (16 ≤ k.toNat ∧ k.toNat ≤ 21)) := by decide

theorem witness_SetCommandsStoreTheirOperand :
    State.reset.fatal = false ∧ (262144#24).toNat ≤ 262144 ∧ 262144 < (262145#24).toNat ∧
      (131072#24).toNat ≤ 131072 ∧ 131072 < (131073#24).toNat := by decide

theorem witness_WriteCommandsStoreOneElement :
    State.reset.fatal = false ∧ ({ State.reset with ptr := 262143 } : State).ptr.toNat < 262144 ∧
      262144 ≤ ({ State.reset with ptr := 262144 } : State).ptr.toNat ∧
      ({ State.reset with ptr := 131071 } : State).ptr.toNat < 131072 ∧
      131072 ≤ ({ State.reset with ptr := 131072 } : State).ptr.toNat := by decide

theorem witness_ReadCommandsAnswerOneElement :
    let s : State := { State.reset with ptr := 1, chunkLen := 2, magLen := 2 }
    let e : State := { State.reset with ptr := 2, chunkLen := 2, magLen := 2 }
    s.fatal = false ∧ s.ptr.toNat < s.chunkLen.toNat ∧ s.ptr.toNat < s.magLen.toNat ∧
      e.fatal = false ∧ e.chunkLen.toNat ≤ e.ptr.toNat ∧ e.magLen.toNat ≤ e.ptr.toNat := by decide

theorem witness_LoadMessageMovesSevenBytes : (holding f17).fatal = false := rfl

theorem witness_ReadMessageAnswersSevenBytes : (holding f17).fatal = false := rfl

theorem witness_RdbitReadsOneSymbol :
    State.reset.fatal = false ∧ (111#8).toNat ≤ 111 ∧ 111 < (112#8).toNat := by decide

theorem witness_PopTakesTheOldestRecord :
    ({ State.reset with outq := [OutRecord.zero] } : State).outq = OutRecord.zero :: [] ∧ State.reset.outq = [] :=
  ⟨rfl, rfl⟩

theorem witness_MaglutIsTheRoundedMagnitude : 128 ≤ 128 ∧ 0 < 128 * 128 + 128 * 128 ∧ 0 < 1 * 1 + 0 * 0 := by decide

theorem witness_MaglutIsSymmetricAndMonotone : 127 ≤ 128 ∧ 128 ≤ 128 ∧ 0 ≤ 128 := by decide

theorem witness_LutrdReadsTheTable :
    State.reset.fatal = false ∧ ((128#8).toNat ≤ 128 ∧ (128#8).toNat ≤ 128) ∧ 128 < (129#8).toNat := by decide

theorem witness_MagvecBuildsTheVector :
    let s : State := { State.reset with chunk := [(0, 255), (1, 255)], chunkLen := 2 }
    s.fatal = false ∧ s.chunkLen.toNat ≠ 0 ∧ s.chunkLen.toNat % 2 = 0 ∧
      0 < s.chunkLen.toNat / 2 ∧ s.chunkLen.toNat / 2 ≤ 1 ∧
      (0#24).toNat = 0 ∧ (262143#24).toNat % 2 = 1 := by decide

/-- 15 samples, the fewest: one that passes, one with sample 13 at the level, one flat; and 14 samples. -/
theorem witness_PrechkTestsThePreamble :
    (withSamples [600, 0, 600, 0, 0, 0, 0, 600, 0, 600, 0, 0, 0, 399, 0]).fatal = false ∧
      (0#24).toNat + 14 < (withSamples [600, 0, 600, 0, 0, 0, 0, 600, 0, 600, 0, 0, 0, 399, 0]).magLen.toNat ∧
      preamble (withSamples [600, 0, 600, 0, 0, 0, 0, 600, 0, 600, 0, 0, 0, 399, 0]).mag 0 = ⟨true, true, 400⟩ ∧
      preamble (withSamples [600, 0, 600, 0, 0, 0, 0, 600, 0, 600, 0, 0, 0, 400, 0]).mag 0 = ⟨false, true, 400⟩ ∧
      preamble (withSamples (List.replicate 15 500)).mag 0 = ⟨false, false, 0⟩ ∧
      ¬ (0#24).toNat + 14 < (14#24).toNat := by decide +kernel

/-- Position 1 of 12 samples, the fewest: late, early and neither; and position 1 of 11, and position 0. -/
theorem witness_PhdetReportsTheFirstBias :
    (withSamples [0, 900, 0, 900, 301, 0, 0, 0, 900, 0, 900, 0]).fatal = false ∧ 1 ≤ (1#24).toNat ∧
      (1#24).toNat + 10 < (withSamples [0, 900, 0, 900, 301, 0, 0, 0, 900, 0, 900, 0]).magLen.toNat ∧
      phase (withSamples [0, 900, 0, 900, 301, 0, 0, 0, 900, 0, 900, 0]).mag 1 = 1 ∧
      phase (withSamples [1, 900, 0, 900, 0, 0, 0, 0, 900, 0, 900, 0]).mag 1 = -1 ∧
      phase (withSamples [0, 900, 0, 900, 300, 0, 0, 300, 900, 0, 900, 300]).mag 1 = 0 ∧
      ¬ (1 ≤ (1#24).toNat ∧ (1#24).toNat + 10 < (11#24).toNat) ∧ ¬ (1 ≤ (0#24).toNat) := by decide +kernel

theorem witness_PhcorRescalesInPlace :
    ({ State.reset with magLen := 239 } : State).fatal = false ∧
      (0#24).toNat + 238 < ({ State.reset with magLen := 239 } : State).magLen.toNat ∧
      ¬ (0#24).toNat + 238 < (238#24).toNat := by decide

/-- 240 samples, the fewest; bit 0 is ambiguous, bit 1 repeats it, bit 2 is 0 and bit 3 is 1. -/
theorem witness_SliceClassifiesAndPacks :
    let s := dataPairs [(700, 700), (100, 0), (0, 300), (900, 0)]
    s.fatal = false ∧ (0#24).toNat + 239 < s.magLen.toNat ∧
      (bitSamples s.mag 0 0, bitSamples s.mag 0 1, bitSamples s.mag 0 2, bitSamples s.mag 0 3) =
        ((700, 700), (100, 0), (0, 300), (900, 0)) ∧
      ¬ (0#24).toNat + 239 < (239#24).toNat := by decide +kernel

theorem witness_AmbiguityStartsAtTheFirstBit :
    (sliceBits [] 0).1.getD 111 .zero = .ambiguous ∧ 0 < 111 ∧ 111 ≤ 111 := by decide +kernel

theorem witness_QualMeasuresTheMeanDifference :
    (dataPairs (List.replicate 112 (2550, 0))).fatal = false ∧ (112#8).toNat = 112 ∧ (56#8).toNat = 56 ∧
      (0#24).toNat + 15 + 2 * (112#8).toNat < (dataPairs (List.replicate 112 (2550, 0))).magLen.toNat ∧
      (0#24).toNat + 15 + 2 * (56#8).toNat < (128#24).toNat ∧
      2550 ≤ quality (dataPairs (List.replicate 112 (2550, 0))).mag 0 112 ∧
      quality (dataPairs (List.replicate 112 (2549, 0))).mag 0 112 < 2550 ∧
      ¬ ((57#8).toNat = 56 ∨ (57#8).toNat = 112) ∧ ¬ (0#24).toNat + 15 + 2 * (56#8).toNat < (127#24).toNat := by
  decide +kernel

theorem witness_CrctabFollowsTheGenerator :
    State.reset.fatal = false ∧ (111#8).toNat ≤ 111 ∧ 111 < (112#8).toNat := by decide

theorem witness_CrcAnswersComputedAndReceived :
    (holding f17).fatal = false ∧ (56#8).toNat = 56 ∧ (112#8).toNat = 112 ∧
      ¬ ((57#8).toNat = 56 ∨ (57#8).toNat = 112) := by decide

theorem witness_ChecksumIsLinear : 111 < 112 ∧ 55 < 56 := by decide

/-- Bit 39 of F17 flipped: no lower flip is valid; and F17 itself, which no flip makes valid. -/
theorem witness_Fix1TakesTheLowestPosition :
    (holding (flipBit f17 39)).fatal = false ∧ (112#8).toNat = 112 ∧ 39 < (112#8).toNat ∧
      fixOne (flipBit f17 39) 112 = some 39 ∧ fixOne f17 112 = none ∧
      ¬ ((57#8).toNat = 56 ∨ (57#8).toNat = 112) := by decide +kernel

theorem witness_Fix1RestoresEverySingleFlip :
    State.reset.fatal = false ∧ (112#8).toNat = 112 ∧ validMsg f17 (112#8).toNat = true ∧ 111 < (112#8).toNat ∧
      (56#8).toNat = 56 ∧ validMsg f11 (56#8).toNat = true ∧ 55 < (56#8).toNat := by decide +kernel

/-- The message that neither search repairs. -/
theorem f11Bad_beyond_repair :
    validMsg f11Bad 56 = false ∧ fixOne f11Bad 56 = none ∧ fixTwo f11Bad 56 = none := by decide +kernel

/-- Bits 0 and 1 of F11 flipped: there is no smaller pair; and a message that no pair makes valid. -/
theorem witness_Fix2TakesTheSmallestPair :
    (holding f11Bad).fatal = false ∧ (56#8).toNat = 56 ∧ 0 < 1 ∧ 1 < (56#8).toNat ∧
      validMsg (flipBit (flipBit (flipBit (flipBit f11 0) 1) 0) 1) (56#8).toNat = true ∧
      (∀ p' r', p' < r' → ¬ (p' < 0 ∨ (p' = 0 ∧ r' < 1))) ∧ fixTwo f11Bad (56#8).toNat = none ∧
      ¬ ((57#8).toNat = 56 ∨ (57#8).toNat = 112) :=
  ⟨rfl, rfl, by decide, by decide, by decide +kernel, by omega, f11Bad_beyond_repair.2.2, by decide⟩

theorem witness_Fix2RestoresEveryDoubleFlip :
    State.reset.fatal = false ∧ (112#8).toNat = 112 ∧ validMsg f17 (112#8).toNat = true ∧ 110 < 111 ∧
      111 < (112#8).toNat ∧ (56#8).toNat = 56 ∧ validMsg f11 (56#8).toNat = true ∧ 0 < 55 ∧ 55 < (56#8).toNat := by
  decide +kernel

/-- F20 with its address absent, 60 s old, and one tick older. -/
theorem witness_ApchkLooksUpTheUnmaskedAddress :
    (holding f20).fatal = false ∧ (112#8).toNat = 112 ∧ unmaskAddress f20 112 = 0x4840D6 ∧
      lookupAt (holding f20).cache 0x4840D6 = none ∧
      lookupAt [(0x4840D6, 1000000000#56)] 0x4840D6 = some 1000000000 ∧
      (1060000000#56).toNat - (1000000000#56).toNat ≤ 60000000 ∧
      60000000 < (1060000001#56).toNat - (1000000000#56).toNat ∧
      ¬ ((57#8).toNat = 56 ∨ (57#8).toNat = 112) := by decide +kernel

/-- A message for each path: direct, one flip, two flips, beyond repair, unmasked, and a format without correction. -/
theorem witness_ValidateFollowsTheFlow :
    (holding f17).fatal = false ∧ validMsg f17 112 = true ∧ (msgByte f17 0).toNat / 8 = 17 ∧
      validMsg (flipBit f11 33) 56 = false ∧ (msgByte (flipBit f11 33) 0).toNat / 8 = 11 ∧
      fixOne (flipBit f11 33) 56 = some 33 ∧
      validMsg (flipBit (flipBit f11 5) 6) 56 = false ∧ (msgByte (flipBit (flipBit f11 5) 6) 0).toNat / 8 = 11 ∧
      fixOne (flipBit (flipBit f11 5) 6) 56 = none ∧ fixTwo (flipBit (flipBit f11 5) 6) 56 = some (5, 6) ∧
      (msgByte f11Bad 0).toNat / 8 = 11 ∧
      validMsg f20 112 = false ∧ (msgByte f20 0).toNat / 8 = 20 ∧
      cacheHas [(0x4840D6, 1000000000)] (unmaskAddress f20 112) 1030000000 = true ∧
      validMsg (0xFF : Msg) 56 = true ∧
      validMsg (0x90000000000000000000000000FF : Msg) 56 = false ∧
      (msgByte (0x90000000000000000000000000FF : Msg) 0).toNat / 8 = 18 := by decide +kernel

theorem witness_CcontLooksUpAndEvicts :
    let s : State := { State.reset with cache := [(7, 5)], ts := 60000005 }
    let late : State := { State.reset with cache := [(7, 5)], ts := 60000006 }
    s.fatal = false ∧ rising s.cache ∧ lookupAt s.cache (8#24).toNat = none ∧
      lookupAt s.cache (7#24).toNat = some 5 ∧ s.ts.toNat - (5#56).toNat ≤ 60000000 ∧
      60000000 < late.ts.toNat - (5#56).toNat := by decide +kernel

theorem witness_CinsSetsTheTimestamp :
    let s : State := { State.reset with cache := [(0, 5), (0xFFFFFF, 6)] }
    s.fatal = false ∧ rising s.cache ∧ lookupAt s.cache (1#24).toNat = none ∧
      lookupAt s.cache (0xFFFFFF#24).toNat ≠ none := by decide +kernel

theorem witness_CacheSixtySecondBoundary :
    let s : State := { State.reset with ts := 5000000 }
    s.fatal = false ∧ s.ts.toNat ≤ (65000000#56).toNat ∧ (65000000#56).toNat ≤ s.ts.toNat + 60000000 ∧
      s.ts.toNat ≤ (65000001#56).toNat ∧ s.ts.toNat + 60000000 < (65000001#56).toNat := by decide

/-- The first candidate after reset, MSGBITS 0, in both modes; and the Accepted rows. -/
theorem witness_TransitionsOfJAndMode :
    let z : State := { State.reset with magLen := 241 }
    let s : State := { State.reset with magLen := 241, msgBits := 112 }
    let r : State := { State.reset with magLen := 251, j := 10, msgBits := 56, mode := .retryWithPhaseCorrection }
    (z.j.toNat + 240 < z.magLen.toNat ∧ z.msgBits = 0 ∧ z.mode = .scanningNormal) ∧
      (s.j.toNat + 240 < s.magLen.toNat ∧ (s.msgBits = 56 ∨ s.msgBits = 112) ∧ s.mode = .scanningNormal) ∧
      (r.j.toNat + 240 < r.magLen.toNat ∧ (r.msgBits = 56 ∨ r.msgBits = 112) ∧
        r.mode = .retryWithPhaseCorrection) := by decide

/-- No preamble, without the shape and with it; a strong valid frame; a weak one; a strong one whose first bit is ambiguous,
and a strong one that validation refuses. -/
theorem witness_CandidateOutcomesOfTheNormalMode :
    State.reset.mode = .scanningNormal ∧ (candidate State.reset).2 = .noPreamble ∧
      (candidate { idealF17 with mag := idealF17.mag.write 11 9000 }).2 = .noPreamble ∧
      (preamble (idealF17.mag.write 11 9000) 0).shape = true ∧
      idealF17.mode = .scanningNormal ∧ (candidate idealF17).2 = .accepted ∧
      (candidate { idealF17 with mag := [(0, 9), (2, 9), (7, 9), (9, 9)] }).2 = .weak ∧
      (candidate ambiguousF17).2 = .failed ∧
      (candidate spoiled).2 = .failed := by decide +kernel

/-- A retry at J = 0, uncorrected: weak, and failed; and one at J = 1 with an early phase, corrected: accepted. -/
theorem witness_RetryRestoresTheDataRegion :
    ((retrying idealF17).mode = .retryWithPhaseCorrection ∧ idealF17.j = 0 ∧
      (candidate (retrying { idealF17 with mag := [] })).2 = .weak ∧
      (candidate (retrying spoiled)).2 = .failed) ∧
      (earlyF17.j.toNat ≠ 0 ∧ phase earlyF17.mag earlyF17.j.toNat ≠ 0 ∧
        earlyF17.mode = .retryWithPhaseCorrection) ∧ (candidate earlyF17).2 = .accepted :=
  ⟨by decide +kernel, by decide +kernel, test_retry.1⟩

/-- A full queue with nothing to scan, a full queue with one position, and room for exactly the worst case. -/
theorem witness_ScanCompletesWithinItsBound :
    fullQueue.fatal = false ∧ fullQueue.outq.length + maxMsg fullQueue.magLen.toNat ≤ 4096 ∧
      4096 < fullQueue.outq.length + maxMsg 241 ∧ fullQueue.outq.length ≤ 4096 ∧
      ({ fullQueue with outq := List.replicate 4095 OutRecord.zero, magLen := 241 } : State).outq.length +
        maxMsg (241#24).toNat ≤ 4096 := by
  decide +kernel

theorem witness_ScanRunsToCompletion :
    ({ State.reset with magLen := 240 } : State).magLen.toNat ≤ 240 ∧
      240 < ({ State.reset with magLen := 241 } : State).magLen.toNat := by decide

theorem witness_ScanRestoresTheVector :
    idealF17.mag.wf 131072 ∧ idealF17.magLen.toNat ≤ 131072 ∧ ∃ t, exec .scan idealF17 = .next t :=
  ⟨by decide +kernel, by decide, _, rfl⟩

theorem witness_DemodIsMagvecThenScan :
    let s : State := { State.reset with chunkLen := 2 }
    let f : State := { fullQueue with chunkLen := 482 }
    (s.fatal = false ∧ s.chunkLen.toNat ≠ 0 ∧ s.chunkLen.toNat % 2 = 0 ∧
      s.outq.length + maxMsg (s.chunkLen.toNat / 2) ≤ 4096) ∧
      (f.fatal = false ∧ f.chunkLen.toNat ≠ 0 ∧ f.chunkLen.toNat % 2 = 0 ∧
        4096 < f.outq.length + maxMsg (f.chunkLen.toNat / 2) ∧ f.outq.length ≤ 4096) ∧
      (State.reset.chunkLen.toNat = 0 ∧ (1#24).toNat % 2 = 1) := by
  decide +kernel

theorem witness_FlatVectorYieldsNothing :
    let s := withSamples (List.replicate 241 7)
    s.fatal = false ∧ 240 < s.magLen.toNat ∧ s.magLen.toNat ≤ 131072 ∧ s.outq = [] ∧
      ∀ a < s.magLen.toNat, s.mag.read a = 7 := by decide +kernel

/-- The record that the scan of the ideal transmission appends. -/
theorem witness_RecordsDescribeTheirBytes :
    idealF17.fatal = false ∧ ∃ t, exec .scan idealF17 = .next t ∧
      ⟨f17, true, 17, true, 0x4840D6, 77⟩ ∈ t.outq ∧ idealF17.outq = [] := by
  have h := test_scan
  unfold after at h
  cases hr : exec .scan idealF17 with
  | next t =>
    rw [hr] at h
    simp only [Bool.and_eq_true, beq_iff_eq] at h
    exact ⟨rfl, t, rfl, by rw [h.1.1.1]; exact List.mem_singleton.2 rfl, rfl⟩
  | fault r => cases r
  | refused r => rw [hr] at h; cases h

theorem witness_IdealFrameIsDecodedOnce :
    idealF17.fatal = false ∧ idealF17.outq = [] ∧ idealF17.magLen.toNat ≤ 131072 ∧
      0 + 240 < idealF17.magLen.toNat ∧ 2550 ≤ (2550#16).toNat ∧ (msgByte f17 0).toNat / 8 = 17 ∧
      validMsg f17 112 = true ∧
      ∀ a, idealF17.mag.read a =
        if a < 0 ∨ 0 + 240 ≤ a then 0
        else if a < 0 + 16 then (if a = 0 ∨ a = 0 + 2 ∨ a = 0 + 7 ∨ a = 0 + 9 then 2550 else 0)
        else if f17.getMsbD ((a - 0 - 16) / 2) = decide ((a - 0) % 2 = 0) then 2550 else 0 := by
  refine ⟨rfl, rfl, by decide, by decide, by decide, by decide +kernel, by decide +kernel, fun a => ?_⟩
  have h := lookupAt_listFrom 0 ((List.range 240).map fun a =>
    (if a < 16 then (if a = 0 ∨ a = 2 ∨ a = 7 ∨ a = 9 then 2550 else 0)
      else if f17.getMsbD ((a - 16) / 2) = decide (a % 2 = 0) then 2550 else 0 : BitVec 16)) a
  change idealF17.mag.read a = _ at h
  rw [h]
  by_cases ha : a < 240
  · simp [ha, List.getD_eq_getElem?_getD, show ¬ 240 ≤ a by omega]
  · simp [ha, List.getD_eq_getElem?_getD, show 240 ≤ a by omega]

theorem witness_AuxIsUnobservable : ∃ t, exec .scan idealF17 = .next t := ⟨_, rfl⟩

end Sys2Proof.Tests
end

section
/-! SUPPORT. What a command can leave behind, its response aside, said once for all 37 commands: the inversion of `exec`
that the invariant (O10) and the frame of the registers (O18) are derived from. -/

namespace Sys2Proof.Machine

/-- `Effect s i u`: the command `i` may leave the state `s` as `u`, the response aside, with the check that let it. -/
inductive Effect (s : State) : Instr → State → Prop
  | unchanged (i : Instr) : Effect s i s
  | fatal {i : Instr} (hi : i = .magvec ∨ i = .demod) : Effect s i (setFatal s)
  | sreset : Effect s .sreset (resetBlock s)
  | setptr (a : BitVec 24) : Effect s (.setptr a) { s with ptr := a }
  | wrb (b : BitVec 8) (hp : s.ptr.toNat < Config.defaults.chunkCap) :
      Effect s (.wrb b) (advancePtr { s with chunk := s.chunk.write s.ptr.toNat b })
  | setlen (n : BitVec 24) (hn : n.toNat ≤ Config.defaults.chunkCap) : Effect s (.setlen n) { s with chunkLen := n }
  | wrm (h : BitVec 16) (hp : s.ptr.toNat < Config.defaults.magCap) :
      Effect s (.wrm h) (advancePtr { s with mag := s.mag.write s.ptr.toNat h })
  | setmlen (n : BitVec 24) (hn : n.toNat ≤ Config.defaults.magCap) : Effect s (.setmlen n) { s with magLen := n }
  | rdmag : Effect s .rdmag (advancePtr s)
  | setts (x : BitVec 56) : Effect s (.setts x) { s with ts := Config.defaults.tick x }
  | ldm0 (m : BitVec 56) : Effect s (.ldm0 m) { s with msg := loadFirstSeven s.msg m }
  | ldm1 (m : BitVec 56) : Effect s (.ldm1 m) { s with msg := loadLastSeven s.msg m }
  | pop {r : OutRecord} {rest : List OutRecord} (hq : s.outq = r :: rest) : Effect s .pop (takeRecord r rest s)
  | rdb : Effect s .rdb (advancePtr s)
  | magvec : Effect s .magvec (buildVector s)
  | prechk (j : BitVec 24) : Effect s (.prechk j) (latchHigh (preamble s.mag j.toNat) s)
  | phcor (j : BitVec 24) (hj : phcorOk j s.magLen = true) :
      Effect s (.phcor j) { s with mag := correct s.mag j.toNat }
  | slice (j : BitVec 24) : Effect s (.slice j) (latchLength (writeSlice j.toNat s))
  | fix1 (bits : BitVec 8) (p : Nat) : Effect s (.fix1 bits) { s with msg := flipBit s.msg p }
  | fix2 (bits : BitVec 8) (p r : Nat) : Effect s (.fix2 bits) { s with msg := flipBit (flipBit s.msg p) r }
  | apchk (bits : BitVec 8) (cand : Word24) :
      Effect s (.apchk bits) (setCache (cacheAfterLookup s.cache cand s.ts) s)
  | validate : Effect s .validate (validateMsg s.ts (latchLength s)).1
  | ccont (addr : BitVec 24) : Effect s (.ccont addr) (setCache (cacheAfterLookup s.cache addr s.ts) s)
  | cins (addr : BitVec 24) : Effect s (.cins addr) (setCache (cacheInsert s.cache addr s.ts) s)
  | scan (hq : queueLacksRoom s s.magLen.toNat = false) : Effect s .scan (runScan s).1
  | demod (hq : queueLacksRoom s (s.chunkLen.toNat / 2) = false) : Effect s .demod (runScan (buildVector s)).1

/-- The result `r` of the command `i` in the state `s` is an effect of `i` with some response. -/
def Ends (s : State) (i : Instr) (r : Result) : Prop :=
  ∃ st v u, r = .next (withResponse st v u) ∧ Effect s i u

section Ends
variable {s u : State} {i : Instr}

theorem Ends.respond (v : Word56) (e : Effect s i u) : Ends s i (respond v u) := ⟨.ok, v, u, rfl, e⟩

/-- A command that changes nothing but the response (R250, R252). -/
theorem Ends.answer (v : Word56) : Ends s i (Machine.respond v s) := .respond v (.unchanged i)

theorem Ends.raise (st : Status) : Ends s i (raise st s) := ⟨st, 0, s, rfl, .unchanged i⟩

theorem Ends.raiseChunkLen (hi : i = .magvec ∨ i = .demod) : Ends s i (raiseChunkLen s) :=
  ⟨.chunkLen, 0, setFatal s, rfl, .fatal hi⟩

/-- The FATAL gate either refuses or runs the body (R294). -/
theorem Ends.gate {body : Result} (h : Ends s i body) : Ends s i (whenRunning s body) := by
  cases hf : s.fatal with
  | true => exact ⟨.fatal, 0, s, whenRunning_fatal hf body, .unchanged i⟩
  | false => rwa [whenRunning_running hf]

/-- A check is passed or not. -/
theorem Ends.check {c : Prop} [Decidable c] {a b : Result} (ha : c → Ends s i a) (hb : ¬ c → Ends s i b) :
    Ends s i (if c then a else b) := by
  split
  · exact ha ‹c›
  · exact hb ‹¬ c›

theorem Ends.rdreg (k : BitVec 8) : Ends s (.rdreg k) (execRdreg k s) := by
  unfold execRdreg
  split
  · exact .answer _
  · exact .raise _

theorem Ends.pop : Ends s .pop (execPop s) := by
  unfold execPop
  split
  · exact .raise _
  · exact .respond _ (.pop ‹_›)

theorem Ends.fix1 (bits : BitVec 8) : Ends s (.fix1 bits) (execFix1 bits s) := by
  refine .gate (.check (fun _ => ?_) fun _ => .raise _)
  split
  · exact .respond _ (.fix1 bits _)
  · exact .answer _

theorem Ends.fix2 (bits : BitVec 8) : Ends s (.fix2 bits) (execFix2 bits s) := by
  refine .gate (.check (fun _ => ?_) fun _ => .raise _)
  split
  · exact .respond _ (.fix2 bits _ _)
  · exact .answer _

end Ends

/-- Every command ends in one of its effects (R333). -/
theorem exec_ends (i : Instr) (s : State) : Ends s i (exec i s) := by
  cases i with
  | nop => exact .answer _
  | sreset => exact .respond _ .sreset
  | rdreg k => exact .rdreg k
  | setptr a => exact .gate (.respond _ (.setptr a))
  | wrb b => exact .gate (.check (fun _ => .raise _) fun hp => .respond _ (.wrb b (Nat.lt_of_not_ge hp)))
  | setlen n => exact .gate (.check (fun _ => .raise _) fun hn => .respond _ (.setlen n (Nat.le_of_not_gt hn)))
  | wrm h => exact .gate (.check (fun _ => .raise _) fun hp => .respond _ (.wrm h (Nat.lt_of_not_ge hp)))
  | setmlen n => exact .gate (.check (fun _ => .raise _) fun hn => .respond _ (.setmlen n (Nat.le_of_not_gt hn)))
  | rdmag => exact .gate (.check (fun _ => .raise _) fun _ => .respond _ .rdmag)
  | setts x => exact .gate (.respond _ (.setts x))
  | ldm0 m => exact .gate (.respond _ (.ldm0 m))
  | ldm1 m => exact .gate (.respond _ (.ldm1 m))
  | rdm0 => exact .gate (.answer _)
  | rdm1 => exact .gate (.answer _)
  | rdbit k => exact .gate (.check (fun _ => .answer _) fun _ => .raise _)
  | pop => exact .pop
  | rdo0 => exact .answer _
  | rdo1 => exact .answer _
  | rdots => exact .answer _
  | rdb => exact .gate (.check (fun _ => .raise _) fun _ => .respond _ .rdb)
  | lutrd di dq => exact .gate (.check (fun _ => .answer _) fun _ => .raise _)
  | magvec => exact .gate (.check (fun _ => .raiseChunkLen (.inl rfl)) fun _ => .respond _ .magvec)
  | prechk j => exact .gate (.check (fun _ => .respond _ (.prechk j)) fun _ => .raise _)
  | phdet j => exact .gate (.check (fun _ => .answer _) fun _ => .raise _)
  | phcor j => exact .gate (.check (fun hj => .respond _ (.phcor j hj)) fun _ => .raise _)
  | slice j => exact .gate (.check (fun _ => .respond _ (.slice j)) fun _ => .raise _)
  | qual j bits =>
    exact .gate (.check (fun _ => .raise _) fun _ => .check (fun _ => .answer _) fun _ => .raise _)
  | crc bits => exact .gate (.check (fun _ => .answer _) fun _ => .raise _)
  | fix1 bits => exact .fix1 bits
  | fix2 bits => exact .fix2 bits
  | apchk bits => exact .gate (.check (fun _ => .respond _ (.apchk bits _)) fun _ => .raise _)
  | validate => exact .gate (.respond _ .validate)
  | crctab k => exact .gate (.check (fun _ => .answer _) fun _ => .raise _)
  | ccont addr => exact .gate (.respond _ (.ccont addr))
  | cins addr => exact .gate (.respond _ (.cins addr))
  | demod =>
    exact .gate (.check (fun _ => .raiseChunkLen (.inr rfl)) fun _ =>
      .check (fun _ => .raise _) fun hq => .respond _ (.demod (eq_false_of_ne_true hq)))
  | scan =>
    exact .gate (.check (fun _ => .raise _) fun hq => .respond _ (.scan (eq_false_of_ne_true hq)))

/-- What a command can do: one of its effects, and a response. -/
theorem exec_cases {i : Instr} {s t : State} (h : exec i s = .next t) :
    ∃ st v u, t = withResponse st v u ∧ Effect s i u := by
  obtain ⟨st, v, u, hr, he⟩ := exec_ends i s
  exact ⟨st, v, u, by simpa [h] using hr, he⟩

/-! ### Reset -/

@[simp] theorem symbolAt_reset (k : Nat) : symbolAt State.reset.bits k = .zero := by
  rw [symbolAt, State.reset, Vector.toList_replicate, List.getD_eq_getElem?_getD,
    List.getElem?_getD_replicate_default_eq]

/-- Settles O8. -/
theorem resetValues : Obligations.ResetValues :=
  ⟨Memory.read_nil, Memory.read_nil, Memory.read_nil, symbolAt_reset, rfl, rfl, rfl, rfl, rfl, rfl, rfl, rfl, rfl, rfl,
    rfl, fun _ => rfl, rfl, rfl, rfl, rfl, rfl, rfl⟩

/-- Settles O18: SRESET apart, each effect touches only the registers its command may change; a scan touches none of the
frame `ScanFrame` (R227). -/
theorem onlyTheNamedCommandsWriteRegisters : Obligations.OnlyTheNamedCommandsWriteRegisters := by
  intro i s t h hi
  obtain ⟨st, v, u, rfl, e⟩ := exec_cases h
  cases e with
  | sreset => exact absurd rfl hi
  | fatal hi => rcases hi with rfl | rfl <;> simp
  | scan =>
    obtain ⟨f, -⟩ := runScan_frame s
    simp [f.ptr, f.chunkLen, f.magLen, f.ts, f.chunk, f.out, f.fatal, f.fatalCause]
  | demod =>
    obtain ⟨f, -⟩ := runScan_frame (buildVector s)
    simp [f.ptr, f.chunkLen, f.ts, f.chunk, f.out]
  | _ => simp

end Sys2Proof.Machine
end

section
/-! SUPPORT. AUX cannot be observed (R24): a retry writes all of AUX before it reads it (R229), and nothing else reads it.
`withAux` replaces AUX; each function of the model is shown to commute with it. -/

namespace Sys2Proof.Machine

/-- What was written as a block reads back as a block. -/
theorem Memory.readBlock_writeBlock {w : Nat} (m : Memory w) (base : Nat) (vs : List (BitVec w)) :
    (m.writeBlock base vs).readBlock base vs.length = vs := by
  refine List.ext_getElem (Memory.length_readBlock _ _) fun x _ hx => ?_
  simp [Memory.readBlock, hx]

/-- The state with another AUX. -/
def withAux (aux : Memory 16) (s : State) : State := { s with aux := aux }

@[simp] theorem withAux_msg (aux : Memory 16) (s : State) : (withAux aux s).msg = s.msg := rfl
@[simp] theorem withAux_magLen (aux : Memory 16) (s : State) : (withAux aux s).magLen = s.magLen := rfl
@[simp] theorem withAux_outq (aux : Memory 16) (s : State) : (withAux aux s).outq = s.outq := rfl
@[simp] theorem withAux_j (aux : Memory 16) (s : State) : (withAux aux s).j = s.j := rfl

/-! ### One candidate and the scan -/

section Candidate
variable (aux : Memory 16) (s : State)

theorem judgeMessage_withAux :
    judgeMessage (withAux aux s) = (withAux aux (judgeMessage s).1, (judgeMessage s).2) := by
  have hv : validateMsg (withAux aux s).ts (withAux aux s) =
    (withAux aux (validateMsg s.ts s).1, (validateMsg s.ts s).2) := rfl
  simp only [judgeMessage, hv]
  change (if s.errors ≠ 0 then _ else _) = _
  split
  · rfl
  · split <;> rfl

theorem judgeSlice_withAux (j : Nat) :
    judgeSlice j (withAux aux s) = (withAux aux (judgeSlice j s).1, (judgeSlice j s).2) := by
  have hl : latchLength (withAux aux s) = withAux aux (latchLength s) := rfl
  simp only [judgeSlice, hl, judgeMessage_withAux]
  change (if qualityPasses (quality (latchLength s).mag j (latchLength s).msgBits.toNat) then _ else _) = _
  split <;> rfl

theorem latchHigh_withAux (v : PreambleVerdict) : latchHigh v (withAux aux s) = withAux aux (latchHigh v s) := by
  unfold latchHigh
  split <;> rfl

theorem writeSlice_withAux (j : Nat) : writeSlice j (withAux aux s) = withAux aux (writeSlice j s) := by
  simp only [writeSlice, withAux]

theorem normalCandidate_withAux :
    normalCandidate (withAux aux s) = (withAux aux (normalCandidate s).1, (normalCandidate s).2) := by
  simp only [normalCandidate, latchHigh_withAux, writeSlice_withAux, judgeSlice_withAux]
  change (if (preamble s.mag s.j.toNat).pass then _ else _) = _
  split <;> rfl

/-- AUX after the retry's save reads back as the samples saved, whatever it held before (R229). -/
theorem readBlock_saveRegion (j : Nat) :
    (saveRegion j s).aux.readBlock 0 Config.auxCap =
      s.mag.readBlock (j + Config.preambleSamples) Config.auxCap := by
  have h := s.aux.readBlock_writeBlock 0 (s.mag.readBlock (j + Config.preambleSamples) Config.auxCap)
  rwa [Memory.length_readBlock] at h

theorem restoreRegion_withAux (j : Nat) (h : aux.readBlock 0 Config.auxCap = s.aux.readBlock 0 Config.auxCap) :
    restoreRegion j (withAux aux s) = withAux aux (restoreRegion j s) := by
  simp only [restoreRegion, withAux, h]

/-- The retry restores MAG from samples it has saved itself. -/
theorem retrySlice_withAux (j : Nat) :
    retrySlice j (withAux aux s) = withAux (saveRegion j (withAux aux s)).aux (retrySlice j s) := by
  let u := correctRegion j (saveRegion j s)
  let saved := (saveRegion j (withAux aux s)).aux
  have hread : saved.readBlock 0 Config.auxCap = (writeSlice j u).aux.readBlock 0 Config.auxCap := by
    rw [writeSlice_aux, correctRegion_aux, readBlock_saveRegion, readBlock_saveRegion]
    rfl
  calc retrySlice j (withAux aux s)
    _ = restoreRegion j (writeSlice j (withAux saved u)) := rfl
    _ = restoreRegion j (withAux saved (writeSlice j u)) := by rw [writeSlice_withAux]
    _ = withAux saved (retrySlice j s) := restoreRegion_withAux _ _ j hread

theorem retryCandidate_withAux :
    ∃ aux', retryCandidate (withAux aux s) = (withAux aux' (retryCandidate s).1, (retryCandidate s).2) := by
  refine ⟨(saveRegion s.j.toNat (withAux aux s)).aux, ?_⟩
  change judgeSlice s.j.toNat (retrySlice s.j.toNat (withAux aux s)) = _
  rw [retrySlice_withAux, judgeSlice_withAux, retryCandidate]

theorem candidate_normal {s : State} (h : s.mode = .scanningNormal) : candidate s = normalCandidate s := by
  rw [candidate, h]

theorem candidate_retry {s : State} (h : s.mode = .retryWithPhaseCorrection) : candidate s = retryCandidate s := by
  rw [candidate, h]

theorem candidate_withAux :
    ∃ aux', candidate (withAux aux s) = (withAux aux' (candidate s).1, (candidate s).2) := by
  cases hm : s.mode with
  | scanningNormal =>
    rw [candidate_normal hm, candidate_normal (s := withAux aux s) hm]
    exact ⟨aux, normalCandidate_withAux aux s⟩
  | retryWithPhaseCorrection =>
    rw [candidate_retry hm, candidate_retry (s := withAux aux s) hm]
    exact retryCandidate_withAux aux s

end Candidate

theorem scanLoop_withAux (n : Nat) (aux : Memory 16) (s : State) (count : Nat) :
    ∃ aux', scanLoop n (withAux aux s) count =
      (withAux aux' (scanLoop n s count).1, (scanLoop n s count).2) := by
  induction n generalizing aux s count with
  | zero => exact ⟨aux, rfl⟩
  | succ n ih =>
    obtain ⟨aux₁, h⟩ := candidate_withAux aux s
    have hg : scanGoesOn (withAux aux s) = scanGoesOn s := rfl
    simp only [scanLoop, hg, h]
    split
    · exact ih aux₁ (applyTransition (candidate s).2 (candidate s).1) _
    · exact ⟨aux, rfl⟩

theorem runScan_withAux (aux : Memory 16) (s : State) :
    ∃ aux', runScan (withAux aux s) = (withAux aux' (runScan s).1, (runScan s).2) :=
  scanLoop_withAux _ aux (startScan s) 0

/-! ### Every command -/

/-- The results go on to states that differ at most in AUX, and so with the same response. -/
def SameButAux (r r' : Result) : Prop := ∀ t, r = .next t → ∃ aux', r' = .next (withAux aux' t)

section SameButAux
variable {s : State} {aux : Memory 16}

theorem SameButAux.respond {u u' : State} (v : Word56) (h : ∃ aux', u' = withAux aux' u) :
    SameButAux (respond v u) (respond v u') := by
  rintro t ⟨⟩
  obtain ⟨aux', rfl⟩ := h
  exact ⟨aux', rfl⟩

/-- A command that writes no AUX. -/
theorem SameButAux.keep (v : Word56) (u : State) (aux : Memory 16) :
    SameButAux (Machine.respond v u) (Machine.respond v (withAux aux u)) := .respond v ⟨aux, rfl⟩

theorem SameButAux.raise (st : Status) : SameButAux (raise st s) (raise st (withAux aux s)) := by
  rintro t ⟨⟩
  exact ⟨aux, rfl⟩

theorem SameButAux.raiseChunkLen : SameButAux (raiseChunkLen s) (raiseChunkLen (withAux aux s)) := by
  rintro t ⟨⟩
  exact ⟨aux, rfl⟩

theorem SameButAux.check {c : Prop} [Decidable c] {a a' b b' : Result} (ha : SameButAux a a')
    (hb : SameButAux b b') : SameButAux (if c then a else b) (if c then a' else b') := by
  split <;> assumption

theorem SameButAux.gate {body body' : Result} (h : SameButAux body body') :
    SameButAux (whenRunning s body) (whenRunning (withAux aux s) body') := .check (.raise _) h

theorem SameButAux.rdreg (k : BitVec 8) : SameButAux (execRdreg k s) (execRdreg k (withAux aux s)) := by
  have hw : registerWord (withAux aux s) k.toNat = registerWord s k.toNat := rfl
  simp only [execRdreg, hw]
  split
  · exact .keep _ s aux
  · exact .raise _

theorem SameButAux.pop : SameButAux (execPop s) (execPop (withAux aux s)) := by
  simp only [execPop, withAux_outq]
  split
  · exact .raise _
  · exact .keep _ (takeRecord _ _ s) aux

theorem SameButAux.phcor (j : BitVec 24) : SameButAux (execPhcor j s) (execPhcor j (withAux aux s)) :=
  .gate (.check (.respond _ ⟨aux, by simp only [withAux]⟩) (.raise _))

theorem SameButAux.slice (j : BitVec 24) : SameButAux (execSlice j s) (execSlice j (withAux aux s)) := by
  have ht : latchLength (withAux aux (writeSlice j.toNat s)) = withAux aux (latchLength (writeSlice j.toNat s)) := rfl
  simp only [execSlice, writeSlice_withAux, ht, withAux_magLen]
  generalize latchLength (writeSlice j.toNat s) = u
  exact .gate (.check (.keep _ u aux) (.raise _))

theorem SameButAux.fix1 (bits : BitVec 8) : SameButAux (execFix1 bits s) (execFix1 bits (withAux aux s)) := by
  refine .gate (.check ?_ (.raise _))
  simp only [withAux_msg]
  split
  · exact .keep _ { s with msg := _ } aux
  · exact .keep _ s aux

theorem SameButAux.fix2 (bits : BitVec 8) : SameButAux (execFix2 bits s) (execFix2 bits (withAux aux s)) := by
  refine .gate (.check ?_ (.raise _))
  simp only [withAux_msg]
  split
  · exact .keep _ { s with msg := _ } aux
  · exact .keep _ s aux

theorem SameButAux.scanAndRespond : SameButAux (scanAndRespond s) (scanAndRespond (withAux aux s)) := by
  obtain ⟨aux', h⟩ := runScan_withAux aux s
  simp only [Machine.scanAndRespond, h, withAux_j]
  exact .keep _ _ aux'

end SameButAux

/-- AUX does not show in any command's response, nor in the rest of the state (R24). -/
theorem exec_withAux (i : Instr) (s : State) (aux : Memory 16) : SameButAux (exec i s) (exec i (withAux aux s)) := by
  cases i with
  | nop => exact .keep _ s aux
  | sreset => exact .respond _ ⟨[], rfl⟩
  | rdreg k => exact .rdreg k
  | setptr a => exact .gate (.keep _ { s with ptr := a } aux)
  | wrb b => exact .gate (.check (.raise _) (.keep _ (advancePtr { s with chunk := _ }) aux))
  | setlen n => exact .gate (.check (.raise _) (.keep _ { s with chunkLen := n } aux))
  | wrm h => exact .gate (.check (.raise _) (.keep _ (advancePtr { s with mag := _ }) aux))
  | setmlen n => exact .gate (.check (.raise _) (.keep _ { s with magLen := n } aux))
  | rdmag => exact .gate (.check (.raise _) (.keep _ (advancePtr s) aux))
  | setts x => exact .gate (.keep _ { s with ts := _ } aux)
  | ldm0 m => exact .gate (.keep _ { s with msg := _ } aux)
  | ldm1 m => exact .gate (.keep _ { s with msg := _ } aux)
  | rdm0 => exact .gate (.keep _ s aux)
  | rdm1 => exact .gate (.keep _ s aux)
  | rdbit k => exact .gate (.check (.keep _ s aux) (.raise _))
  | pop => exact .pop
  | rdo0 => exact .keep _ s aux
  | rdo1 => exact .keep _ s aux
  | rdots => exact .keep _ s aux
  | rdb => exact .gate (.check (.raise _) (.keep _ (advancePtr s) aux))
  | lutrd di dq => exact .gate (.check (.keep _ s aux) (.raise _))
  | magvec => exact .gate (.check .raiseChunkLen (.keep _ (buildVector s) aux))
  | prechk j => exact .gate (.check (.respond _ ⟨aux, latchHigh_withAux aux s _⟩) (.raise _))
  | phdet j => exact .gate (.check (.keep _ s aux) (.raise _))
  | phcor j => exact .phcor j
  | slice j => exact .slice j
  | qual j bits => exact .gate (.check (.raise _) (.check (.keep _ s aux) (.raise _)))
  | crc bits => exact .gate (.check (.keep _ s aux) (.raise _))
  | fix1 bits => exact .fix1 bits
  | fix2 bits => exact .fix2 bits
  | apchk bits => exact .gate (.check (.keep _ (setCache _ s) aux) (.raise _))
  | validate => exact .gate (.keep _ (validateMsg s.ts (latchLength s)).1 aux)
  | crctab k => exact .gate (.check (.keep _ s aux) (.raise _))
  | ccont addr => exact .gate (.keep _ (setCache _ s) aux)
  | cins addr => exact .gate (.keep _ (setCache _ s) aux)
  | demod =>
    exact .gate (.check .raiseChunkLen (.check (.raise _) (.scanAndRespond (s := buildVector s) (aux := aux))))
  | scan => exact .gate (.check (.raise _) .scanAndRespond)

/-- Settles O60. -/
theorem auxIsUnobservable : Obligations.AuxIsUnobservable :=
  fun i s t aux h => exec_withAux i s aux t h

end Sys2Proof.Machine
end

section
/-! SUPPORT. The invariant of the block (O9, O10): a part, `Steady`, that each operation keeps, also inside a scan, and MODE,
which a scan leaves ScanningNormal because its bound is never what ends it (R233). -/

namespace Sys2Proof.Machine

/-! ### What the units write stays in range -/

/-- The canonical form of CACHE inside its capacity (R37). -/
def Cache.wf (c : Cache) : Prop := rising c ∧ ∀ e ∈ c, e.1 < Config.cacheCap

theorem Cache.wf_afterLookup {c : Cache} (h : Cache.wf c) (addr : Word24) (now : Ticks) :
    Cache.wf (cacheAfterLookup c addr now) :=
  ⟨rising_cacheAfterLookup h.1 addr now, cacheAfterLookup_bounded h.2 addr now⟩

theorem Cache.wf_insert {c : Cache} (h : Cache.wf c) (addr : Word24) (now : Ticks) :
    Cache.wf (cacheInsert c addr now) :=
  ⟨rising_cacheInsert h.1 addr now, cacheInsert_bounded h.2 addr now⟩

/-- Validation looks an address up and inserts one, and does no more to CACHE (R193). -/
theorem Cache.wf_validateMsg (now : Ticks) {s : State} (h : Cache.wf s.cache) :
    Cache.wf (validateMsg now s).1.cache := by
  have hu (M : Msg) (v : Verdict) : Cache.wf (unmaskVerdict M s.df0 s.msgBits.toNat s.cache now v).1 := by
    unfold unmaskVerdict
    split
    · exact Cache.wf_afterLookup h _ now
    · exact h
  simp only [validateMsg, insertVerdict]
  split
  · exact Cache.wf_insert (hu _ _) _ now
  · exact hu _ _

/-- Only bit 0 can count an error: an ambiguous pair of a later bit repeats the bit before it (R162). -/
theorem sliceFrom_errors {k : Nat} (hk : 0 < k) (prev : Symbol) (e : BitVec 6) (l : List (Nat × Nat)) :
    (sliceFrom k prev e l).2 = e := by
  induction l generalizing k prev with
  | nil => rfl
  | cons d rest ih =>
    obtain ⟨a, b⟩ := d
    have hc : countsError k a b = false := by
      by_cases hab : a = b
      · simp [countsError, repeats, absDiff, hab, hk, Config.margin]
      · simp [countsError, hab]
    simp [sliceFrom, hc, ih (Nat.succ_pos k)]

/-- ERRORS after a slice (R166). -/
theorem sliceBits_errors_le (mag : Memory 16) (j : Nat) : (sliceBits mag j).2.toNat ≤ 1 := by
  unfold sliceBits
  cases (List.range Config.longBits).map (bitSamples mag j) with
  | nil => simp [sliceFrom]
  | cons d rest =>
    obtain ⟨a, b⟩ := d
    simp only [sliceFrom, sliceFrom_errors Nat.one_pos]
    split <;> simp

/-- HIGH as the preamble test would write it (R30). -/
theorem preamble_high_le (mag : Memory 16) (j : Nat) : (preamble mag j).high.toNat ≤ 43690 := by
  unfold preamble
  split
  · exact (Nat.mod_le _ _).trans (preambleLevel_le mag j)
  · simp

/-- The bytes of a record past a short message are 0 (R232), so its last seven are unless it is long. -/
theorem recordOf_clean {s : State} (h : s.msgBits = 0 ∨ s.msgBits = 56 ∨ s.msgBits = 112) : (recordOf s).clean := by
  constructor
  · intro hl
    have hbits : s.msgBits.toNat / 8 ≤ 7 := by
      rcases h with h | h | h
      · simp [h]
      · simp [h]
      · simp [recordOf, isLong, h, Config.longBits] at hl
    refine BitVec.eq_of_getLsbD_eq fun i hi => ?_
    have hb := getLsbD_foldBytes ((List.range 14).map fun n => if n < s.msgBits.toNat / 8 then msgByte s.msg n else 0)
      (i / 8) (i % 8) (by simp; omega) (Nat.mod_lt _ (by omega)) (by simp)
    rw [Nat.div_add_mod] at hb
    rw [BitVec.getLsbD_extractLsb', Nat.zero_add, recordOf, hb]
    simp [List.getD_eq_getElem?_getD, show 13 - i / 8 < 14 by omega, show ¬ 13 - i / 8 < s.msgBits.toNat / 8 by omega]
  · intro ha
    simp only [recordOf] at ha ⊢
    simp [ha]

/-! ### The steady part of the invariant -/

/-- The invariant but for MODE: what holds between commands, and inside a scan as well. -/
structure State.Steady (s : State) : Prop where
  chunk : s.chunk.wf Config.defaults.chunkCap
  mag : s.mag.wf Config.defaults.magCap
  aux : s.aux.wf Config.auxCap
  cache : Cache.wf s.cache
  chunkLen : s.chunkLen.toNat ≤ Config.defaults.chunkCap
  magLen : s.magLen.toNat ≤ Config.defaults.magCap
  j : s.j.toNat ≤ Config.defaults.magCap
  errors : s.errors.toNat ≤ 1
  msgBits : s.msgBits = 0 ∨ s.msgBits = 56 ∨ s.msgBits = 112
  high : s.high.toNat ≤ 43690
  outqLength : s.outq.length ≤ Config.defaults.outqCap
  outqClean : ∀ r ∈ s.outq, r.clean
  out : s.out.clean
  fatal : s.fatalConsistent

theorem State.inv_iff {s : State} : s.Inv ↔ s.Steady ∧ s.mode = .scanningNormal := by
  constructor
  · rintro ⟨⟨hchunk, hmag, haux, hcache⟩, ⟨hcl, hml, hj⟩, ⟨hmode, he, hb, hh⟩, ⟨hql, hqc, ho⟩, hf⟩
    exact ⟨⟨hchunk, hmag, haux, hcache, hcl, hml, hj, he, hb, hh, hql, hqc, ho, hf⟩, hmode⟩
  · rintro ⟨h, hmode⟩
    exact ⟨⟨h.chunk, h.mag, h.aux, h.cache⟩, ⟨h.chunkLen, h.magLen, h.j⟩, ⟨hmode, h.errors, h.msgBits, h.high⟩,
      ⟨h.outqLength, h.outqClean, h.out⟩, h.fatal⟩

theorem steady_resetBlock (s : State) : (resetBlock s).Steady where
  chunk := Memory.wf_nil _
  mag := Memory.wf_nil _
  aux := Memory.wf_nil _
  cache := ⟨List.Pairwise.nil, fun _ h => nomatch h⟩
  chunkLen := Nat.zero_le _
  magLen := Nat.zero_le _
  j := Nat.zero_le _
  errors := Nat.zero_le _
  msgBits := .inl rfl
  high := Nat.zero_le _
  outqLength := Nat.zero_le _
  outqClean := fun _ h => nomatch h
  out := ⟨fun _ => rfl, fun _ => rfl⟩
  fatal := rfl

namespace State.Steady
variable {s : State} (h : s.Steady)
include h

/-! Each operation keeps the steady part: what it writes is named, the rest is as it was. -/

theorem withResponse (st : Status) (v : Word56) : (Machine.withResponse st v s).Steady := { h with }

theorem takeInput (rest : List HostInput) : (Machine.takeInput rest s).Steady := { h with }

theorem setFatal : (Machine.setFatal s).Steady := { h with fatal := rfl }

theorem advancePtr : (Machine.advancePtr s).Steady := { h with }

theorem takeRecord {r : OutRecord} {rest : List OutRecord} (hq : s.outq = r :: rest) :
    (Machine.takeRecord r rest s).Steady :=
  { h with
    outqLength := by
      have hl := h.outqLength
      rw [hq, List.length_cons] at hl
      exact Nat.le_of_succ_le hl
    outqClean := fun d hd => h.outqClean d (hq ▸ List.mem_cons_of_mem r hd)
    out := h.outqClean r (hq ▸ List.mem_cons_self) }

theorem setCache {c : Cache} (hc : Cache.wf c) : (Machine.setCache c s).Steady := { h with cache := hc }

theorem setMag {mag : Memory 16} (hm : mag.wf Config.defaults.magCap) : { s with mag := mag }.Steady :=
  { h with mag := hm }

theorem setMsg (M : Msg) : { s with msg := M }.Steady := { h with }

theorem buildVector : (Machine.buildVector s).Steady :=
  { h with
    mag := wf_buildVector h.mag h.chunkLen
    magLen := by
      have hl := h.chunkLen
      simp only [Config.defaults_chunkCap] at hl
      simp only [buildVector_magLen, BitVec.toNat_ofNat, Config.defaults_magCap]
      omega }

theorem latchHigh (j : Nat) : (Machine.latchHigh (preamble s.mag j) s).Steady := by
  unfold Machine.latchHigh
  split
  · exact { h with high := preamble_high_le s.mag j }
  · exact h

theorem setSlice (bits : Vector Symbol 112) (M : Msg) {e : BitVec 6} (he : e.toNat ≤ 1) :
    { s with bits := bits, errors := e, msg := M }.Steady := { h with errors := he }

theorem writeSlice (j : Nat) : (Machine.writeSlice j s).Steady := h.setSlice _ _ (sliceBits_errors_le s.mag j)

theorem latchLength : (Machine.latchLength s).Steady :=
  { h with msgBits := .inr (ofNat_lengthOf_cases (formatField s.msg)) }

theorem validateMsg (now : Ticks) : (Machine.validateMsg now s).1.Steady :=
  { h with cache := Cache.wf_validateMsg now h.cache }

theorem pushRecord (hroom : s.outq.length < Config.defaults.outqCap) : (Machine.pushRecord s).Steady :=
  { h with
    outqLength := by simpa using Nat.succ_le_of_lt hroom
    outqClean := by
      intro r hr
      rcases List.mem_append.1 hr with hr | hr
      · exact h.outqClean r hr
      · exact List.mem_singleton.1 hr ▸ recordOf_clean h.msgBits }

/-! ### One candidate -/

theorem saveRegion (j : Nat) : (Machine.saveRegion j s).Steady :=
  { h with aux := Memory.wf_writeBlock h.aux _ (by simp) }

theorem correctRegion {j : Nat} (hj : j + 240 ≤ Config.defaults.magCap) : (Machine.correctRegion j s).Steady :=
  h.setMag (by
    split
    · exact Memory.wf_correct h.mag (by omega)
    · exact h.mag)

theorem restoreRegion {j : Nat} (hj : j + 240 ≤ Config.defaults.magCap) : (Machine.restoreRegion j s).Steady :=
  h.setMag (Memory.wf_writeBlock h.mag _ (by
    simp only [Memory.length_readBlock, Config.preambleSamples, Config.auxCap]
    omega))

theorem retrySlice {j : Nat} (hj : j + 240 ≤ Config.defaults.magCap) : (Machine.retrySlice j s).Steady :=
  (((h.saveRegion j).correctRegion hj).writeSlice j).restoreRegion hj

theorem judgeMessage (hroom : s.outq.length < Config.defaults.outqCap) : (Machine.judgeMessage s).1.Steady := by
  unfold Machine.judgeMessage
  split
  · exact h
  · simp only
    split
    · exact (h.validateMsg s.ts).pushRecord hroom
    · exact h.validateMsg s.ts

theorem judgeSlice (j : Nat) (hroom : s.outq.length < Config.defaults.outqCap) : (Machine.judgeSlice j s).1.Steady := by
  simp only [Machine.judgeSlice]
  split
  · exact h.latchLength.judgeMessage hroom
  · exact h.latchLength

theorem candidate (hg : scanGoesOn s = true) (hroom : s.outq.length < Config.defaults.outqCap) :
    (Machine.candidate s).1.Steady := by
  cases hm : s.mode with
  | scanningNormal =>
    simp only [candidate_normal hm, normalCandidate]
    split
    · exact ((h.latchHigh _).writeSlice _).judgeSlice _ (by simpa using hroom)
    · exact h.latchHigh _
  | retryWithPhaseCorrection =>
    have hj : s.j.toNat + 240 ≤ Config.defaults.magCap := (of_decide_eq_true hg).le.trans h.magLen
    rw [candidate_retry hm, retryCandidate]
    refine (h.retrySlice hj).judgeSlice _ ?_
    rwa [(retrySlice_frame s.j.toNat s).2.1]

/-- J after a candidate, as long as it stays inside the vector: it does not wrap (R31). -/
theorem applyTransition {o : CandidateOutcome} {x : Nat} (hx : nextJ s.mode o s.j.toNat s.msgBits.toNat = x)
    (hcap : x ≤ Config.defaults.magCap) :
    (Machine.applyTransition o s).Steady ∧ (Machine.applyTransition o s).j.toNat = x := by
  have hj : (Machine.applyTransition o s).j.toNat = x := by
    rw [Config.defaults_magCap] at hcap
    rw [applyTransition_j, hx, BitVec.toNat_ofNat, Nat.mod_eq_of_lt (by omega)]
  exact ⟨{ h with j := hj ▸ hcap }, hj⟩

end State.Steady

/-! ### The scan -/

/-- The three rows of the transition (R233): a failed candidate is tried again in its place, an accepted one is passed
whole, any other by one sample. -/
theorem transition_cases (mode : ScanMode) (o : CandidateOutcome) (j msgBits : Nat) :
    (mode = .scanningNormal ∧ o ≠ .accepted ∧ nextJ mode o j msgBits = j ∧
      nextMode mode o = .retryWithPhaseCorrection) ∨
    (o = .accepted ∧ nextJ mode o j msgBits = j + frameAdvance msgBits ∧ nextMode mode o = .scanningNormal) ∨
    (o ≠ .accepted ∧ nextJ mode o j msgBits = j + 1 ∧ nextMode mode o = .scanningNormal) := by
  cases mode <;> cases o <;> simp [nextJ, nextMode]

/-- What holds before every candidate of a scan: besides the steady part, J inside the vector, a retry only where the loop
goes on, and room in OUTQ for a short frame every 129 samples of what is left (R237). -/
structure Scanning (s : State) : Prop where
  steady : s.Steady
  place : s.j.toNat ≤ s.magLen.toNat
  retry : s.mode = .retryWithPhaseCorrection → scanGoesOn s = true
  room : s.magLen.toNat ≤ 240 + s.j.toNat + 129 * (4096 - s.outq.length)

/-- The candidates that are left at most: two for each place, one where the first of them has failed (R233). -/
def candidatesLeft (s : State) : Nat :=
  2 * (s.magLen.toNat - 240 - s.j.toNat) - if s.mode = .retryWithPhaseCorrection then 1 else 0

theorem scanGoesOn_iff {s : State} : scanGoesOn s = true ↔ s.j.toNat + 240 < s.magLen.toNat :=
  decide_eq_true_iff

theorem scanGoesOn_eq_false {s : State} (h : candidatesLeft s = 0) : scanGoesOn s = false := by
  refine eq_false_of_ne_true fun hg => ?_
  have := scanGoesOn_iff.1 hg
  unfold candidatesLeft at h
  split at h <;> omega

/-- One candidate moves J by at most 241 and appends at most one record for 129 samples; J stands still only where a
failed candidate starts its retry (R233). -/
theorem candidate_moves (s : State) :
    ∃ x k, nextJ (candidate s).1.mode (candidate s).2 (candidate s).1.j.toNat (candidate s).1.msgBits.toNat =
        s.j.toNat + x ∧
      x ≤ 241 ∧ 129 * k ≤ x ∧ (candidate s).1.outq.length = s.outq.length + k ∧
      ((x = 0 ∧ s.mode = .scanningNormal ∧
          nextMode (candidate s).1.mode (candidate s).2 = .retryWithPhaseCorrection) ∨
        (0 < x ∧ nextMode (candidate s).1.mode (candidate s).2 = .scanningNormal)) := by
  obtain ⟨-, hj, hmode, happ, hbits⟩ := candidate_spec s
  rw [hj, hmode]
  rcases transition_cases s.mode (candidate s).2 s.j.toNat (candidate s).1.msgBits.toNat with
    ⟨hnormal, ho, hJ, hM⟩ | ⟨ho, hJ, hM⟩ | ⟨ho, hJ, hM⟩
  · have hq : (candidate s).1.outq = s.outq := by simpa [Appends, ho] using happ
    exact ⟨0, 0, hJ, by omega, by omega, by rw [hq]; rfl, .inl ⟨rfl, hnormal, hM⟩⟩
  · obtain ⟨r, hq⟩ : ∃ r, (candidate s).1.outq = s.outq ++ [r] := by simpa [Appends, ho] using happ
    have hadvance : frameAdvance (candidate s).1.msgBits.toNat = 129 ∨
        frameAdvance (candidate s).1.msgBits.toNat = 241 := by
      rcases hbits with hb | hb | hb
      · rw [ho] at hb; cases hb
      · rw [hb]; exact .inl rfl
      · rw [hb]; exact .inr rfl
    exact ⟨_, 1, hJ, by omega, by omega, by rw [hq, List.length_append, List.length_singleton], .inr ⟨by omega, hM⟩⟩
  · have hq : (candidate s).1.outq = s.outq := by simpa [Appends, ho] using happ
    exact ⟨1, 0, hJ, by omega, by omega, by rw [hq]; rfl, .inr ⟨by omega, hM⟩⟩

/-- A candidate and its transition keep what holds before every candidate, and leave one candidate fewer. -/
theorem Scanning.next {s : State} (h : Scanning s) (hg : scanGoesOn s = true) :
    Scanning (applyTransition (candidate s).2 (candidate s).1) ∧
      candidatesLeft (applyTransition (candidate s).2 (candidate s).1) < candidatesLeft s := by
  have hlt := scanGoesOn_iff.1 hg
  have hroom := h.room
  have hcandidate := h.steady.candidate hg (by rw [Config.defaults_outqCap]; omega)
  obtain ⟨x, k, hJ, hx, hk, hq, hM⟩ := candidate_moves s
  obtain ⟨hsteady, hj⟩ := hcandidate.applyTransition hJ (le_trans (by omega) h.steady.magLen)
  have hml : (applyTransition (candidate s).2 (candidate s).1).magLen = s.magLen := (candidate_spec s).1.magLen
  rw [← applyTransition_outq (candidate s).2] at hq
  rw [← applyTransition_mode] at hM
  generalize applyTransition (candidate s).2 (candidate s).1 = t at *
  refine ⟨⟨hsteady, ?place, fun hr => ?retry, ?room⟩, ?less⟩
  case place => rw [hj, hml]; omega
  case retry =>
    obtain ⟨rfl, -, -⟩ | ⟨-, hn⟩ := hM
    · rwa [scanGoesOn_iff, hj, hml]
    · rw [hn] at hr; cases hr
  case room => rw [hj, hml, hq]; omega
  case less =>
    simp only [candidatesLeft, hj, hml]
    obtain ⟨rfl, hn, hr⟩ | ⟨hpos, hn⟩ := hM
    · simp only [hn, hr, reduceCtorEq, if_true, if_false]
      omega
    · simp only [hn, reduceCtorEq, if_false]
      split <;> omega

/-- A scan that may still judge every candidate left ends by its condition (R233, R234). -/
theorem scanLoop_ends (n : Nat) {s : State} (count : Nat) (h : Scanning s) (hn : candidatesLeft s ≤ n) :
    Scanning (scanLoop n s count).1 ∧ scanGoesOn (scanLoop n s count).1 = false := by
  induction n generalizing s count with
  | zero => exact ⟨h, scanGoesOn_eq_false (Nat.le_zero.1 hn)⟩
  | succ n ih =>
    simp only [scanLoop]
    split
    · next hg =>
      obtain ⟨hnext, hless⟩ := h.next hg
      exact ih _ hnext (by omega)
    · next hg => exact ⟨h, eq_false_of_ne_true hg⟩

/-- OUTQ has room for the worst case of a scan: one record every 129 samples (R237). -/
theorem room_of_queueLacksRoom {s : State} {len : Nat} (h : queueLacksRoom s len = false) :
    len ≤ 240 + 129 * (4096 - s.outq.length) := by
  have hm : maxMsg len ≤ 4096 - s.outq.length := Nat.le_of_not_lt (of_decide_eq_false h)
  by_cases hlen : len ≤ Config.fullLen
  · exact hlen.trans (Nat.le_add_right _ _)
  · rw [maxMsg, if_neg hlen] at hm
    simp only [frameAdvance, Config.fullLen, Config.samplesPerUs, Config.preambleUs, Config.shortBits] at hm hlen
    omega

theorem scanning_startScan {s : State} (h : s.Steady) (hq : queueLacksRoom s s.magLen.toNat = false) :
    Scanning (startScan s) where
  steady := { h with j := Nat.zero_le _ }
  place := Nat.zero_le _
  retry := fun hr => nomatch hr
  room := room_of_queueLacksRoom hq

/-- A scan keeps the steady part and ends in ScanningNormal: a retry stands only where the loop goes on. -/
theorem runScan_inv {s : State} (h : s.Steady) (hq : queueLacksRoom s s.magLen.toNat = false) :
    (runScan s).1.Inv := by
  have hleft : candidatesLeft (startScan s) = 2 * (s.magLen.toNat - Config.fullLen) := by
    simp [candidatesLeft, Config.fullLen]
  obtain ⟨hscan, hend⟩ : Scanning (runScan s).1 ∧ scanGoesOn (runScan s).1 = false :=
    scanLoop_ends _ 0 (scanning_startScan h hq) hleft.le
  generalize (runScan s).1 = t at *
  refine State.inv_iff.2 ⟨hscan.steady, ?_⟩
  cases hm : t.mode with
  | scanningNormal => rfl
  | retryWithPhaseCorrection => rw [hscan.retry hm] at hend; cases hend

/-! ### Every command, every step -/

/-- Every effect of a command keeps the invariant. -/
theorem Effect.inv {i : Instr} {s u : State} (e : Effect s i u) (h : s.Inv) : u.Inv := by
  obtain ⟨hs, hm⟩ := State.inv_iff.1 h
  cases e with
  | unchanged => exact h
  | fatal => exact State.inv_iff.2 ⟨hs.setFatal, hm⟩
  | sreset => exact State.inv_iff.2 ⟨steady_resetBlock s, rfl⟩
  | setptr a => exact State.inv_iff.2 ⟨{ hs with }, hm⟩
  | wrb b hp => exact State.inv_iff.2 ⟨{ hs with chunk := Memory.wf_write hs.chunk hp b }, hm⟩
  | setlen n hn => exact State.inv_iff.2 ⟨{ hs with chunkLen := hn }, hm⟩
  | wrm h hp => exact State.inv_iff.2 ⟨(hs.setMag (Memory.wf_write hs.mag hp h)).advancePtr, hm⟩
  | setmlen n hn => exact State.inv_iff.2 ⟨{ hs with magLen := hn }, hm⟩
  | rdmag => exact State.inv_iff.2 ⟨hs.advancePtr, hm⟩
  | setts x => exact State.inv_iff.2 ⟨{ hs with }, hm⟩
  | ldm0 m => exact State.inv_iff.2 ⟨hs.setMsg _, hm⟩
  | ldm1 m => exact State.inv_iff.2 ⟨hs.setMsg _, hm⟩
  | pop hq => exact State.inv_iff.2 ⟨hs.takeRecord hq, hm⟩
  | rdb => exact State.inv_iff.2 ⟨hs.advancePtr, hm⟩
  | magvec => exact State.inv_iff.2 ⟨hs.buildVector, hm⟩
  | prechk j => exact State.inv_iff.2 ⟨hs.latchHigh _, by simpa using hm⟩
  | phcor j hj =>
    have hlt : j.toNat + 238 < s.magLen.toNat := of_decide_eq_true hj
    exact State.inv_iff.2 ⟨hs.setMag (Memory.wf_correct hs.mag (hlt.trans_le hs.magLen)), hm⟩
  | slice j => exact State.inv_iff.2 ⟨(hs.writeSlice _).latchLength, by simpa using hm⟩
  | fix1 bits p => exact State.inv_iff.2 ⟨hs.setMsg _, hm⟩
  | fix2 bits p r => exact State.inv_iff.2 ⟨hs.setMsg _, hm⟩
  | apchk bits cand => exact State.inv_iff.2 ⟨hs.setCache (Cache.wf_afterLookup hs.cache cand s.ts), hm⟩
  | validate => exact State.inv_iff.2 ⟨hs.latchLength.validateMsg s.ts, hm⟩
  | ccont addr => exact State.inv_iff.2 ⟨hs.setCache (Cache.wf_afterLookup hs.cache addr s.ts), hm⟩
  | cins addr => exact State.inv_iff.2 ⟨hs.setCache (Cache.wf_insert hs.cache addr s.ts), hm⟩
  | scan hq => exact runScan_inv hs hq
  | demod hq =>
    have hlen : (buildVector s).magLen.toNat = s.chunkLen.toNat / 2 := by
      have hcap : s.chunkLen.toNat ≤ 262144 := hs.chunkLen
      rw [buildVector_magLen, BitVec.toNat_ofNat, Nat.mod_eq_of_lt (by omega)]
    exact runScan_inv hs.buildVector (by rw [hlen]; exact hq)

theorem State.Inv.withResponse {s : State} (h : s.Inv) (st : Status) (v : Word56) :
    (Machine.withResponse st v s).Inv := by
  obtain ⟨hs, hm⟩ := State.inv_iff.1 h
  exact State.inv_iff.2 ⟨hs.withResponse st v, hm⟩

/-- Every command keeps the invariant. -/
theorem exec_keeps_inv {i : Instr} {s t : State} (h : s.Inv) (he : exec i s = .next t) : t.Inv := by
  obtain ⟨st, v, u, rfl, e⟩ := exec_cases he
  exact (e.inv h).withResponse st v

theorem inv_resetBlock (s : State) : (resetBlock s).Inv := State.inv_iff.2 ⟨steady_resetBlock s, rfl⟩

/-- Settles O9. -/
theorem resetMeetsInvariant : Obligations.ResetMeetsInvariant := inv_resetBlock State.reset

/-- Settles O10, by the four things a step can do (R90, R95, R320 to R322). -/
theorem stepKeepsInvariant : Obligations.StepKeepsInvariant := by
  intro s t h ht
  have hinput (rest : List HostInput) : (takeInput rest s).Inv := h
  rcases step_cases ht with ⟨-, rfl⟩ | ⟨w, rest, e, -, -, rfl⟩ | ⟨w, rest, i, -, -, he⟩ | ⟨rest, -, rfl⟩
  · exact h
  · exact (hinput rest).withResponse _ _
  · exact exec_keeps_inv (hinput rest) he
  · exact inv_resetBlock _

end Sys2Proof.Machine
end

section
/-! SUPPORT. A scan leaves MAG exactly as it was (O55): a retry reads the same samples after its restore (`read_retrySlice`)
and keeps the canonical form, and spaces of canonical form with equal reads are equal (`Memory.wf_ext`). -/

namespace Sys2Proof.Machine

section Restores
variable {cap : Nat} {s : State}

/-- A retry inside the vector keeps MAG's canonical form (R229). -/
theorem Memory.wf_retrySlice {j : Nat} (h : s.mag.wf cap) (hj : j + 240 ≤ cap) : (retrySlice j s).mag.wf cap := by
  have hcorrected : (correctRegion j (saveRegion j s)).mag.wf cap := by
    rw [correctRegion_mag]
    split
    · exact Memory.wf_correct h (by omega)
    · exact h
  rw [retrySlice, restoreRegion_mag, writeSlice_mag]
  refine Memory.wf_writeBlock hcorrected _ ?_
  simpa [Config.preambleSamples, Config.auxCap] using hj

/-- A retry restores MAG, the list itself and not only its reads (R229). -/
theorem retrySlice_mag {j : Nat} (h : s.mag.wf cap) (hj : j + 240 ≤ cap) : (retrySlice j s).mag = s.mag :=
  Memory.wf_ext (Memory.wf_retrySlice h hj) h (read_retrySlice j s)

theorem candidate_mag (h : s.mag.wf cap) (hj : s.j.toNat + 240 ≤ cap) : (candidate s).1.mag = s.mag := by
  cases hm : s.mode with
  | scanningNormal =>
    obtain ⟨-, hmag, -⟩ := normalCandidate_spec s
    rw [candidate_normal hm, hmag]
  | retryWithPhaseCorrection =>
    obtain ⟨-, hmag, -⟩ := judgeSlice_spec s.j.toNat (retrySlice s.j.toNat s)
    rw [candidate_retry hm, retryCandidate, hmag, retrySlice_mag h hj]

/-- The loop condition keeps every candidate inside the vector (R227), so that each leaves MAG as it was. -/
theorem scanLoop_mag (n count : Nat) (h : s.mag.wf cap) (hl : s.magLen.toNat ≤ cap) :
    (scanLoop n s count).1.mag = s.mag := by
  induction n generalizing s count with
  | zero => rfl
  | succ n ih =>
    simp only [scanLoop]
    split
    · next hg =>
      have hmag : (applyTransition (candidate s).2 (candidate s).1).mag = s.mag :=
        candidate_mag h ((scanGoesOn_iff.1 hg).le.trans hl)
      have hlen : (applyTransition (candidate s).2 (candidate s).1).magLen = s.magLen := (candidate_spec s).1.magLen
      rw [ih _ (by rwa [hmag]) (by rwa [hlen]), hmag]
    · rfl

theorem runScan_mag (h : s.mag.wf cap) (hl : s.magLen.toNat ≤ cap) : (runScan s).1.mag = s.mag := by
  rw [runScan, scanLoop_mag _ 0 (s := startScan s) h hl, startScan_mag]

end Restores

/-- Settles O55: SCAN either changes nothing but the response or runs a scan. -/
theorem scanRestoresTheVector : Obligations.ScanRestoresTheVector := by
  intro s t hwf hlen h
  obtain ⟨st, v, u, rfl, e⟩ := exec_cases h
  cases e with
  | unchanged => rfl
  | fatal hi => rcases hi with hi | hi <;> cases hi
  | scan => rw [withResponse_mag, runScan_mag hwf hlen]

end Sys2Proof.Machine
end

section
/-! SUPPORT. The decoder and the encoder by the rows of the opcode table (R97): which words the decoder accepts (R95,
R96), that it inverts the encoder, and that the encoder inverts it; then the step of a command word (R90). -/

namespace Sys2Proof

/-! ### Command words (R91) -/

/-- A word is its opcode above its operand. -/
theorem commandWord_opcodeOf_operandOf (w : PortWord) : commandWord (opcodeOf w) (operandOf w) = w :=
  (BitVec.extractLsb'_append_extractLsb'_eq_extractLsb' rfl).trans BitVec.extractLsb'_eq_self

theorem commandWord_inj {a b : BitVec 8} {x y : Word56} : commandWord a x = commandWord b y ↔ a = b ∧ x = y := by
  refine ⟨fun h => ⟨?_, ?_⟩, fun ⟨ha, hx⟩ => ha ▸ hx ▸ rfl⟩
  · simpa only [opcodeOf_commandWord] using congrArg opcodeOf h
  · simpa only [operandOf_commandWord] using congrArg operandOf h

theorem commandWord_and (a b : BitVec 8) (x y : Word56) :
    commandWord a x &&& commandWord b y = commandWord (a &&& b) (x &&& y) :=
  BitVec.and_append

/-! ### Operands and their fields (R92) -/

theorem fieldOf_whole (x : Word56) : fieldOf x 0 56 = x := BitVec.extractLsb'_eq_self

theorem fieldOf_byteOperand (k : BitVec 8) : fieldOf (byteOperand k) 0 8 = k :=
  BitVec.extractLsb'_append_eq_right (a := 0#48)

theorem fieldOf_halfOperand (h : BitVec 16) : fieldOf (halfOperand h) 0 16 = h :=
  BitVec.extractLsb'_append_eq_right (a := 0#40)

theorem fieldOf_addrOperand (a : BitVec 24) : fieldOf (addrOperand a) 0 24 = a :=
  BitVec.extractLsb'_append_eq_right (a := 0#32)

theorem fieldOf_iqOperand_high (i q : BitVec 8) : fieldOf (iqOperand i q) 8 8 = i :=
  (BitVec.extractLsb'_append_eq_of_add_le (xhi := 0#40) (by decide)).trans BitVec.extractLsb'_append_eq_left

theorem fieldOf_iqOperand_low (i q : BitVec 8) : fieldOf (iqOperand i q) 0 8 = q :=
  (BitVec.extractLsb'_append_eq_of_add_le (xhi := 0#40) (by decide)).trans BitVec.extractLsb'_append_eq_right

theorem fieldOf_jbOperand_j (j : BitVec 24) (bits : BitVec 8) : fieldOf (jbOperand j bits) 0 24 = j :=
  (BitVec.extractLsb'_append_eq_of_add_le (xhi := 0#24) (by decide)).trans BitVec.extractLsb'_append_eq_right

theorem fieldOf_jbOperand_bits (j : BitVec 24) (bits : BitVec 8) : fieldOf (jbOperand j bits) 24 8 = bits :=
  (BitVec.extractLsb'_append_eq_of_add_le (xhi := 0#24) (by decide)).trans BitVec.extractLsb'_append_eq_left

/-- The operand made again of the fields that a format names. -/
def operandOfFields : Format → Word56 → Word56
  | .n, _ => 0
  | .k8, x => byteOperand (fieldOf x 0 8)
  | .b8, x => byteOperand (fieldOf x 0 8)
  | .h16, x => halfOperand (fieldOf x 0 16)
  | .iq, x => iqOperand (fieldOf x 8 8) (fieldOf x 0 8)
  | .a24, x => addrOperand (fieldOf x 0 24)
  | .jb, x => jbOperand (fieldOf x 0 24) (fieldOf x 24 8)
  | .t56, x => fieldOf x 0 56
  | .m56, x => fieldOf x 0 56

/-- Two fields side by side are one field. -/
theorem fieldOf_append (x : Word56) (lo n m : Nat) :
    fieldOf x (lo + n) m ++ fieldOf x lo n = fieldOf x lo (m + n) :=
  BitVec.extractLsb'_append_extractLsb'_eq_extractLsb' rfl

/-- The lowest `k` bits of `x`, as a word, are `x` under the mask of these bits. -/
theorem eq_and_lowMask {x y named : Word56} (k : Nat) (hy : y.toNat = (fieldOf x 0 k).toNat)
    (hn : named.toNat = 2 ^ k - 1) : y = x &&& named := by
  refine BitVec.eq_of_toNat_eq ?_
  rw [hy, fieldOf, BitVec.extractLsb'_toNat, BitVec.toNat_and, hn, Nat.and_two_pow_sub_one_eq_mod, Nat.shiftRight_zero]

/-- The fields of a format hold the bits it names and no other. -/
theorem operandOfFields_eq (f : Format) (x : Word56) : operandOfFields f x = x &&& namedBits f := by
  have hbyte : byteOperand (fieldOf x 0 8) = x &&& 0xFF := eq_and_lowMask 8 (toNat_zero_append (n := 48) _) rfl
  have hwhole : fieldOf x 0 56 = x &&& 0xFFFFFFFFFFFFFF := eq_and_lowMask 56 rfl rfl
  cases f with
  | n => exact BitVec.and_zero.symm
  | k8 => exact hbyte
  | b8 => exact hbyte
  | h16 => exact eq_and_lowMask 16 (toNat_zero_append (n := 40) _) rfl
  | iq =>
    refine eq_and_lowMask 16 ((toNat_zero_append (n := 40) _).trans ?_) rfl
    exact congrArg BitVec.toNat (fieldOf_append x 0 8 8)
  | a24 => exact eq_and_lowMask 24 (toNat_zero_append (n := 32) _) rfl
  | jb =>
    refine eq_and_lowMask 32 ((toNat_zero_append (n := 24) _).trans ?_) rfl
    exact congrArg BitVec.toNat (fieldOf_append x 0 24 8)
  | t56 => exact hwhole
  | m56 => exact hwhole

/-- Without reserved bits the mask of the named bits changes nothing. -/
theorem and_namedBits {f : Format} {x : Word56} (h : x &&& ~~~(namedBits f) = 0) : x &&& namedBits f = x := by
  refine BitVec.eq_of_getLsbD_eq fun i hi => ?_
  have hbit := congrArg (BitVec.getLsbD · i) h
  simpa [hi] using hbit

/-! ### The decoder (R95) -/

/-- An opcode stands in one row only (R97). -/
theorem opcodeRow_unique {r r' : OpcodeRow} (hr : r ∈ opcodeRows) (hr' : r' ∈ opcodeRows) (h : r.op = r'.op) :
    r = r' :=
  have distinct : (opcodeRows.map (·.op)).Nodup := by decide
  List.inj_on_of_nodup_map distinct hr hr' h

/-- What decoding does with a word of a listed opcode: step (2) of R95. -/
theorem decode_of_row {r : OpcodeRow} {w : PortWord} (hr : r ∈ opcodeRows) (hw : opcodeOf w = r.op) :
    decode w = if operandOf w &&& ~~~(namedBits r.format) = 0 then .ok (r.build (operandOf w))
      else .error (.reservedOperandBits (opcodeOf w)) := by
  unfold decode
  split
  · next hnone => simpa [hw] using List.find?_eq_none.1 hnone r hr
  · next r' hsome =>
    have hop : r'.op = opcodeOf w := by simpa using List.find?_some hsome
    rw [opcodeRow_unique (List.mem_of_find?_eq_some hsome) hr (hop.trans hw)]

/-- Step (1) of R95: a word of no row is an undefined opcode, and only such a word is. -/
theorem decode_undefined_iff {w : PortWord} :
    decode w = .error (.undefinedOpcode (opcodeOf w)) ↔ ∀ r ∈ opcodeRows, opcodeOf w ≠ r.op := by
  constructor
  · intro h r hr hw
    rw [decode_of_row hr hw] at h
    split at h <;> cases h
  · intro h
    have hnone : opcodeRows.find? (fun r => r.op == opcodeOf w) = none :=
      List.find?_eq_none.2 fun r hr => by simpa using (h r hr).symm
    rw [decode, hnone]

/-- A word of a listed opcode is accepted exactly when its reserved operand bits are 0. -/
theorem accepted_iff_of_row {r : OpcodeRow} {w : PortWord} (hr : r ∈ opcodeRows) (hw : opcodeOf w = r.op) :
    (∃ i, decode w = .ok i) ↔ operandOf w &&& ~~~(namedBits r.format) = 0 := by
  rw [decode_of_row hr hw]
  split
  · next hz => exact iff_of_true ⟨_, rfl⟩ hz
  · next hz => exact iff_of_false (fun ⟨_, h⟩ => nomatch h) hz

/-- The words that decode to a command. -/
theorem decode_eq_ok_iff {w : PortWord} {i : Instr} :
    decode w = .ok i ↔ ∃ r ∈ opcodeRows, opcodeOf w = r.op ∧ operandOf w &&& ~~~(namedBits r.format) = 0 ∧
      r.build (operandOf w) = i := by
  constructor
  · intro h
    by_cases hrow : ∀ r ∈ opcodeRows, opcodeOf w ≠ r.op
    · rw [decode_undefined_iff.2 hrow] at h
      cases h
    · push Not at hrow
      obtain ⟨r, hr, hw⟩ := hrow
      have hz := (accepted_iff_of_row hr hw).1 ⟨i, h⟩
      rw [decode_of_row hr hw, if_pos hz] at h
      exact ⟨r, hr, hw, hz, Except.ok.inj h⟩
  · rintro ⟨r, hr, hw, hz, rfl⟩
    rw [decode_of_row hr hw, if_pos hz]

/-! ### Decoding what was encoded -/

/-- The word of row `n` with an operand without reserved bits decodes to the command that the row makes of it. -/
theorem decode_rowWord (n : Nat) (hn : n < opcodeRows.length) {operand : Word56} {i : Instr}
    (hz : operand &&& ~~~(namedBits opcodeRows[n].format) = 0) (hb : opcodeRows[n].build operand = i) :
    decode (commandWord opcodeRows[n].op operand) = .ok i :=
  decode_eq_ok_iff.2 ⟨opcodeRows[n], List.getElem_mem hn, opcodeOf_commandWord _ _,
    by rwa [operandOf_commandWord], by rwa [operandOf_commandWord]⟩

/-- Settles O3, row by row of R97: an operand made of fields has no reserved bit, and its fields are what was put in. -/
theorem decodeInvertsEncode : Obligations.DecodeInvertsEncode := by
  intro i
  cases i with
  | nop => exact decode_rowWord 0 (by decide) (operand := 0) rfl rfl
  | sreset => exact decode_rowWord 1 (by decide) (operand := 0) rfl rfl
  | rdreg k => exact decode_rowWord 2 (by decide) (byteOperand_reserved k) (congrArg _ (fieldOf_byteOperand k))
  | setptr a => exact decode_rowWord 3 (by decide) (addrOperand_reserved a) (congrArg _ (fieldOf_addrOperand a))
  | wrb b => exact decode_rowWord 4 (by decide) (byteOperand_reserved b) (congrArg _ (fieldOf_byteOperand b))
  | setlen n => exact decode_rowWord 5 (by decide) (addrOperand_reserved n) (congrArg _ (fieldOf_addrOperand n))
  | wrm h => exact decode_rowWord 6 (by decide) (halfOperand_reserved h) (congrArg _ (fieldOf_halfOperand h))
  | setmlen n => exact decode_rowWord 7 (by decide) (addrOperand_reserved n) (congrArg _ (fieldOf_addrOperand n))
  | rdmag => exact decode_rowWord 8 (by decide) (operand := 0) rfl rfl
  | setts t => exact decode_rowWord 9 (by decide) (wholeOperand_reserved t) (congrArg _ (fieldOf_whole t))
  | ldm0 m => exact decode_rowWord 10 (by decide) (wholeOperand_reserved m) (congrArg _ (fieldOf_whole m))
  | ldm1 m => exact decode_rowWord 11 (by decide) (wholeOperand_reserved m) (congrArg _ (fieldOf_whole m))
  | rdm0 => exact decode_rowWord 12 (by decide) (operand := 0) rfl rfl
  | rdm1 => exact decode_rowWord 13 (by decide) (operand := 0) rfl rfl
  | rdbit k => exact decode_rowWord 14 (by decide) (byteOperand_reserved k) (congrArg _ (fieldOf_byteOperand k))
  | pop => exact decode_rowWord 15 (by decide) (operand := 0) rfl rfl
  | rdo0 => exact decode_rowWord 16 (by decide) (operand := 0) rfl rfl
  | rdo1 => exact decode_rowWord 17 (by decide) (operand := 0) rfl rfl
  | rdots => exact decode_rowWord 18 (by decide) (operand := 0) rfl rfl
  | rdb => exact decode_rowWord 19 (by decide) (operand := 0) rfl rfl
  | lutrd i q =>
    exact decode_rowWord 20 (by decide) (iqOperand_reserved i q)
      (congrArg₂ _ (fieldOf_iqOperand_high i q) (fieldOf_iqOperand_low i q))
  | magvec => exact decode_rowWord 21 (by decide) (operand := 0) rfl rfl
  | prechk j => exact decode_rowWord 22 (by decide) (addrOperand_reserved j) (congrArg _ (fieldOf_addrOperand j))
  | phdet j => exact decode_rowWord 23 (by decide) (addrOperand_reserved j) (congrArg _ (fieldOf_addrOperand j))
  | phcor j => exact decode_rowWord 24 (by decide) (addrOperand_reserved j) (congrArg _ (fieldOf_addrOperand j))
  | slice j => exact decode_rowWord 25 (by decide) (addrOperand_reserved j) (congrArg _ (fieldOf_addrOperand j))
  | qual j bits =>
    exact decode_rowWord 26 (by decide) (jbOperand_reserved j bits)
      (congrArg₂ _ (fieldOf_jbOperand_j j bits) (fieldOf_jbOperand_bits j bits))
  | crc bits => exact decode_rowWord 27 (by decide) (byteOperand_reserved bits) (congrArg _ (fieldOf_byteOperand bits))
  | fix1 bits => exact decode_rowWord 28 (by decide) (byteOperand_reserved bits) (congrArg _ (fieldOf_byteOperand bits))
  | fix2 bits => exact decode_rowWord 29 (by decide) (byteOperand_reserved bits) (congrArg _ (fieldOf_byteOperand bits))
  | apchk bits =>
    exact decode_rowWord 30 (by decide) (byteOperand_reserved bits) (congrArg _ (fieldOf_byteOperand bits))
  | validate => exact decode_rowWord 31 (by decide) (operand := 0) rfl rfl
  | crctab k => exact decode_rowWord 32 (by decide) (byteOperand_reserved k) (congrArg _ (fieldOf_byteOperand k))
  | ccont addr =>
    exact decode_rowWord 33 (by decide) (addrOperand_reserved addr) (congrArg _ (fieldOf_addrOperand addr))
  | cins addr => exact decode_rowWord 34 (by decide) (addrOperand_reserved addr) (congrArg _ (fieldOf_addrOperand addr))
  | demod => exact decode_rowWord 35 (by decide) (operand := 0) rfl rfl
  | scan => exact decode_rowWord 36 (by decide) (operand := 0) rfl rfl

/-! ### Encoding what was decoded -/

/-- Each row encodes the command that it makes of an operand by its own opcode and the fields it reads. -/
theorem encode_build {r : OpcodeRow} (hr : r ∈ opcodeRows) (x : Word56) :
    encode (r.build x) = commandWord r.op (operandOfFields r.format x) :=
  have table : opcodeRows.map (fun r => encode (r.build x)) =
    opcodeRows.map (fun r => commandWord r.op (operandOfFields r.format x)) := rfl
  List.map_inj_left.1 table r hr

/-- Settles O4: an accepted word has no reserved bit, so that the fields its row reads hold its whole operand. -/
theorem encodeInvertsDecode : Obligations.EncodeInvertsDecode := by
  intro w i h
  obtain ⟨r, hr, hop, hz, rfl⟩ := decode_eq_ok_iff.1 h
  calc encode (r.build (operandOf w))
    _ = commandWord r.op (operandOf w &&& namedBits r.format) := by rw [encode_build hr, operandOfFields_eq]
    _ = commandWord (opcodeOf w) (operandOf w) := by rw [and_namedBits hz, hop]
    _ = w := commandWord_opcodeOf_operandOf w

/-! ### Match and mask (R96) -/

/-- The match byte and the mask of a row: the whole opcode, and the operand bits that its format does not name. -/
def OpcodeRow.matchMask (r : OpcodeRow) : BitVec 8 × PortWord := (r.op, commandWord 0xFF (~~~(namedBits r.format)))

/-- A row's mask and match accept the words of its opcode that are decoded. -/
theorem matchMask_accepts_iff {r : OpcodeRow} (hr : r ∈ opcodeRows) (w : PortWord) :
    w &&& r.matchMask.2 = commandWord r.matchMask.1 0 ↔ opcodeOf w = r.op ∧ ∃ i, decode w = .ok i := by
  have hsplit : w &&& r.matchMask.2 = commandWord (opcodeOf w) (operandOf w &&& ~~~(namedBits r.format)) := by
    conv_lhs => rw [← commandWord_opcodeOf_operandOf w]
    exact (commandWord_and ..).trans (congrArg (commandWord · _) BitVec.and_allOnes)
  rw [hsplit, commandWord_inj]
  exact and_congr_right fun hop => (accepted_iff_of_row hr hop).symm

/-- Settles O1: the statement's table is the opcode table's. -/
theorem decodeAcceptsByMatchAndMask : Obligations.DecodeAcceptsByMatchAndMask := by
  intro w rows
  have hrows : rows = opcodeRows.map OpcodeRow.matchMask := rfl
  simp only [hrows, List.forall_mem_map]
  exact ⟨fun r hr => matchMask_accepts_iff hr w, decode_undefined_iff.symm⟩

/-- Settles O2: the commands' words by O3, the illegal words by running the decoder. -/
theorem decodesWordsWrittenInTheSpec : Obligations.DecodesWordsWrittenInTheSpec :=
  ⟨decodeInvertsEncode .nop, decodeInvertsEncode (.rdreg 12), decodeInvertsEncode (.wrb 227),
    decodeInvertsEncode (.setts 1000000000), decodeInvertsEncode (.ldm0 0x8D4840D6202CC3),
    decodeInvertsEncode (.lutrd 3 4), decodeInvertsEncode (.prechk 5), decodeInvertsEncode (.qual 5 112),
    decodeInvertsEncode (.apchk 112), decodeInvertsEncode (.cins 0x4840D6), decodeInvertsEncode .scan, rfl, rfl, rfl⟩

end Sys2Proof

namespace Sys2Proof.Machine

/-! ### The step of a command word, and its response -/

section Step
variable {s : State} {w : PortWord} {rest : List HostInput}

theorem step_of_decoded {i : Instr} (hs : s.inputs = .command w :: rest) (hd : decode w = .ok i) :
    step s = exec i (takeInput rest s) := by
  simp only [step, stepBy, hs, hd]

theorem step_of_illegal {e : DecodeError} (hs : s.inputs = .command w :: rest) (hd : decode w = .error e) :
    step s = raise .illegal (takeInput rest s) := by
  simp only [step, stepBy, hs, hd, answerIllegal]

end Step

/-- Settles O5. -/
theorem stepRunsDecodedCommand : Obligations.StepRunsDecodedCommand :=
  fun _ _ _ _ hs hd => step_of_decoded hs hd

/-- Settles O6: `raise` changes nothing but the response (R292). -/
theorem illegalWordAnswersIllegal : Obligations.IllegalWordAnswersIllegal :=
  fun _ _ _ _ hs hd => step_of_illegal hs hd

/-- A response word is a number of 64 bits with the status code above the 56 of the value. -/
theorem responseWord_toNat (st : Status) (v : Word56) :
    (responseWord st v).toNat = (statusCode st).toNat * 2 ^ 56 + v.toNat := by
  have happend : (responseWord st v).toNat = (statusCode st).toNat <<< 56 ||| v.toNat := BitVec.toNat_append _ _
  rw [happend, ← Nat.shiftLeft_add_eq_or_of_lt v.isLt, Nat.shiftLeft_eq]

/-- Settles O7. -/
theorem responseWordLayout : Obligations.ResponseWordLayout := by
  intro v
  simp [responseWord_toNat, statusCode]

end Sys2Proof.Machine
end

section
/-! SUPPORT. The magnitude table and the magnitude vector (O27 to O30): a table entry as half of a square root, rounded up,
which `Nat.sqrt` and `round_eq_div` speak of, and a read of the vector that MAGVEC writes. -/

namespace Sys2Proof.Machine

/-! ### The integer square root, halved upwards (R120) -/

theorem isqrt_eq_sqrt (v : Nat) : isqrt v = Nat.sqrt v := Nat.eq_sqrt.2 (isqrt_spec v)

/-- Rounding a scaled square root is halving upwards the square root of the square of twice the whole: the floor that
`round` takes is an integer square root. -/
theorem round_sqrt_mul (c n : Nat) :
    round (Real.sqrt n * c) = (((Nat.sqrt ((2 * c) ^ 2 * n) + 1) / 2 : Nat) : ℤ) := by
  have hroot : 2 * (Real.sqrt n * c) = Real.sqrt (((2 * c) ^ 2 * n : Nat) : ℝ) := by
    push_cast
    rw [Real.sqrt_mul (by positivity), Real.sqrt_sq (by positivity)]
    ring
  rw [round_eq_div, hroot, Real.floor_real_sqrt_eq_nat_sqrt]
  push_cast
  rfl

/-- For `v` the halved square root of a positive even number, the number lies strictly between the squares of `2v - 1` and
`2v + 1`: it is neither of them, which are odd. -/
theorem halved_sqrt_bracket {N : Nat} (hpos : 0 < N) (heven : Even N) :
    (2 * ((Nat.sqrt N + 1) / 2) - 1) ^ 2 < N ∧ N < (2 * ((Nat.sqrt N + 1) / 2) + 1) ^ 2 := by
  have hroot : 0 < Nat.sqrt N := Nat.sqrt_pos.2 hpos
  constructor
  · have hle : (2 * ((Nat.sqrt N + 1) / 2) - 1) ^ 2 ≤ N :=
      (Nat.pow_le_pow_left (by omega) 2).trans (Nat.sqrt_le' N)
    have hodd : Odd ((2 * ((Nat.sqrt N + 1) / 2) - 1) ^ 2) := Odd.pow ⟨(Nat.sqrt N + 1) / 2 - 1, by omega⟩
    refine hle.lt_of_ne fun h => ?_
    rw [h] at hodd
    exact Nat.not_odd_iff_even.2 heven hodd
  · exact (Nat.lt_succ_sqrt' N).trans_le (Nat.pow_le_pow_left (by omega) 2)

/-! ### The table (R120, R121) -/

/-- R120 with the model's constants as numbers and its square root as the library's. -/
theorem maglut_eq (i q : Nat) :
    maglut i q = BitVec.ofNat 16 ((Nat.sqrt (518400 * (i * i + q * q)) + 1) / 2) := by
  rw [maglut, isqrt_eq_sqrt]
  rfl

theorem maglut_comm (i q : Nat) : maglut i q = maglut q i := by
  rw [maglut_eq, maglut_eq, Nat.add_comm (i * i)]

/-- The deviations that the table has entries for give at most 65167 = MAGLUT(128, 128). -/
theorem halved_sqrt_le {i q : Nat} (hi : i ≤ 128) (hq : q ≤ 128) :
    (Nat.sqrt (518400 * (i * i + q * q)) + 1) / 2 ≤ 65167 := by
  have hn : i * i + q * q ≤ 128 * 128 + 128 * 128 := Nat.add_le_add (Nat.mul_le_mul hi hi) (Nat.mul_le_mul hq hq)
  have hroot : Nat.sqrt (518400 * (i * i + q * q)) < 130334 := Nat.sqrt_lt.2 (by omega)
  omega

/-- An entry of the table: it fits the 16 bits of a sample (R21, R120). -/
theorem maglut_toNat {i q : Nat} (hi : i ≤ 128) (hq : q ≤ 128) :
    (maglut i q).toNat = (Nat.sqrt (518400 * (i * i + q * q)) + 1) / 2 := by
  have hfits := halved_sqrt_le hi hq
  rw [maglut_eq, BitVec.toNat_ofNat]
  exact Nat.mod_eq_of_lt (by omega)

theorem maglut_toNat_axis {i : Nat} (hi : i ≤ 128) : (maglut i 0).toNat = 360 * i := by
  have hsquare : 518400 * (i * i + 0 * 0) = 720 * i * (720 * i) := by ring
  rw [maglut_toNat hi (Nat.zero_le _), hsquare, Nat.sqrt_eq]
  omega

theorem maglut_toNat_mono {i i' q : Nat} (h : i ≤ i') (hi' : i' ≤ 128) (hq : q ≤ 128) :
    (maglut i q).toNat ≤ (maglut i' q).toNat := by
  rw [maglut_toNat (h.trans hi') hq, maglut_toNat hi' hq]
  gcongr

/-- Settles O27: the entry is the halved square root (`maglut_toNat`), which `round` rounds to and which lies between the
squares of two odd numbers, `518400 n` being even. -/
theorem maglutIsTheRoundedMagnitude : Obligations.MaglutIsTheRoundedMagnitude := by
  intro i q hi hq
  refine ⟨?_, maglut_toNat hi hq, fun hn => ?_, fun hn => ?_⟩
  · rw [maglut_toNat hi hq]
    simpa [sq] using (round_sqrt_mul 360 (i * i + q * q)).symm
  · rw [maglut_eq, hn]
    rfl
  · rw [maglut_toNat hi hq]
    exact halved_sqrt_bracket (by omega) (Even.mul_right (by decide) _)

/-- Settles O28. -/
theorem maglutIsSymmetricAndMonotone : Obligations.MaglutIsSymmetricAndMonotone := by
  intro i q hi hq
  refine ⟨maglut_comm i q, maglut_toNat_axis hi, ?_, ?_, fun i' h hi' => maglut_toNat_mono h hi' hq⟩
  · rw [maglut_toNat hi hq]
    exact halved_sqrt_le hi hq
  · have hroot : Nat.sqrt (518400 * (128 * 128 + 128 * 128)) = 130333 :=
      (Nat.eq_sqrt.2 ⟨by norm_num, by norm_num⟩).symm
    rw [maglut_toNat le_rfl le_rfl, hroot]

/-! ### LUTRD (R122) -/

theorem lutIndexOk_iff {i q : BitVec 8} : lutIndexOk i q = true ↔ i.toNat ≤ 128 ∧ q.toNat ≤ 128 := by
  simp [lutIndexOk, Config.lutDim, Nat.lt_succ_iff]

theorem exec_lutrd {s : State} (hf : s.fatal = false) (i q : BitVec 8) :
    exec (.lutrd i q) s =
      if lutIndexOk i q then respond ((maglut i.toNat q.toNat).setWidth 56) s else raise .range s :=
  whenRunning_running hf _

/-- LUTRD's word field by field (R92, format IQ), associated from the left. -/
theorem encode_lutrd (i q : BitVec 8) : encode (.lutrd i q) = 0x20#8 ++ 0#40 ++ i ++ q := by
  have hpair : 0x20#8 ++ 0#40 ++ (i ++ q) = 0x20#8 ++ (0#40 ++ (i ++ q)) := BitVec.append_assoc
  have hbytes : 0x20#8 ++ 0#40 ++ i ++ q = 0x20#8 ++ 0#40 ++ (i ++ q) := BitVec.append_assoc
  exact (hbytes.trans hpair).symm

/-- Settles O29. -/
theorem lutrdReadsTheTable : Obligations.LutrdReadsTheTable := by
  intro s i q hf
  refine ⟨fun hok => ?_, fun hbad => ?_, ?_⟩
  · rw [exec_lutrd hf, if_pos (lutIndexOk_iff.2 hok), respond_next, okAnswer, BitVec.ofNat_toNat]
    rfl
  · rw [exec_lutrd hf, if_neg (by rw [lutIndexOk_iff]; omega), raise_next]
    rfl
  · exact encode_lutrd i q

/-! ### The magnitude vector (R123, R124) -/

theorem chunkLenBad_iff {n : BitVec 24} : chunkLenBad n = true ↔ n.toNat = 0 ∨ n.toNat % 2 = 1 := by
  simp [chunkLenBad]

@[simp] theorem length_chunkMagnitudes (chunk : Memory 8) (chunkLen : Nat) :
    (chunkMagnitudes chunk chunkLen).length = chunkLen / 2 := by
  simp [chunkMagnitudes]

theorem getD_chunkMagnitudes (chunk : Memory 8) {chunkLen k : Nat} (hk : k < chunkLen / 2) :
    (chunkMagnitudes chunk chunkLen).getD k 0 = pairMagnitude (chunk.read (2 * k)) (chunk.read (2 * k + 1)) := by
  simp [chunkMagnitudes, List.getD_eq_getElem?_getD, hk]

/-- A sample of the vector that the builder leaves: of the chunk's pair below the new MAGLEN, the old one from there on. -/
theorem read_buildVector (s : State) (k : Nat) :
    (buildVector s).mag.read k =
      if k < s.chunkLen.toNat / 2 then pairMagnitude (s.chunk.read (2 * k)) (s.chunk.read (2 * k + 1))
      else s.mag.read k := by
  rw [buildVector_mag, Memory.read_writeBlock, length_chunkMagnitudes, Nat.zero_add, Nat.sub_zero]
  simp only [Nat.zero_le, true_and]
  exact ite_congr rfl (fun hk => getD_chunkMagnitudes _ hk) fun _ => rfl

theorem exec_magvec {s : State} (hf : s.fatal = false) :
    exec .magvec s =
      if chunkLenBad s.chunkLen then raiseChunkLen s
      else respond ((buildVector s).magLen.setWidth 56) (buildVector s) :=
  whenRunning_running hf _

/-- MAGVEC answers the new MAGLEN whole: half of a 24-bit length has 24 bits. -/
theorem buildVector_magLen_setWidth (s : State) :
    (buildVector s).magLen.setWidth 56 = BitVec.ofNat 56 (s.chunkLen.toNat / 2) := by
  have hfits : s.chunkLen.toNat / 2 < 2 ^ 24 := (Nat.div_le_self _ _).trans_lt s.chunkLen.isLt
  rw [buildVector_magLen, ← BitVec.ofNat_toNat, BitVec.toNat_ofNat, Nat.mod_eq_of_lt hfits]

/-- Settles O30: the vector is the one that `buildVector` writes. -/
theorem magvecBuildsTheVector : Obligations.MagvecBuildsTheVector := by
  intro s hf
  refine ⟨fun hpos heven => ⟨(buildVector s).mag, ?_, fun k hk => ?_, fun k hk => ?_⟩, fun hbad => ?_, rfl⟩
  · rw [exec_magvec hf, if_neg (by rw [chunkLenBad_iff]; omega), respond_next, buildVector_magLen_setWidth]
    rfl
  · rw [read_buildVector, if_pos hk]
    rfl
  · rw [read_buildVector, if_neg (Nat.not_lt.2 hk)]
  · rw [exec_magvec hf, if_pos (chunkLenBad_iff.2 hbad), raiseChunkLen_next]
    rfl

end Sys2Proof.Machine
end

section
/-! SUPPORT. The preamble test, the phase test and the phase correction (O31 to O33): what a passed test says of the
samples, and the correction stopped after its first iterations, which no later iteration disturbs. -/

namespace Sys2Proof.Machine

/-- The word of a command of format A24, field by field (R91, R92). -/
theorem commandWord_addrOperand (op : BitVec 8) (a : BitVec 24) : commandWord op (addrOperand a) = op ++ 0#32 ++ a := by
  have hassoc : op ++ 0#32 ++ a = op ++ (0#32 ++ a) := BitVec.append_assoc
  exact hassoc.symm

/-- Putting one vector above another adds it at the other's weight. -/
theorem toNat_append_add {n m : Nat} (x : BitVec n) (y : BitVec m) : (x ++ y).toNat = x.toNat * 2 ^ m + y.toNat := by
  rw [BitVec.toNat_append, ← Nat.shiftLeft_add_eq_or_of_lt y.isLt, Nat.shiftLeft_eq]

theorem respond_zero (s : State) : respond 0 s = .next { s with rsp := okAnswer 0 } := rfl

/-! ### PRECHK (R141, R143) -/

theorem prechkOk_iff {j n : BitVec 24} : prechkOk j n = true ↔ j.toNat + 14 < n.toNat := decide_eq_true_iff

theorem preambleShape_iff {mag : Memory 16} {j : Nat} :
    preambleShape mag j = true ↔
      let m := fun x => sampleAt mag (j + x)
      m 0 > m 1 ∧ m 1 < m 2 ∧ m 2 > m 3 ∧ m 3 < m 0 ∧ m 4 < m 0 ∧ m 5 < m 0 ∧ m 6 < m 0 ∧
        m 7 > m 8 ∧ m 8 < m 9 ∧ m 9 > m 6 := by
  simp only [preambleShape, Bool.and_eq_true, decide_eq_true_eq, and_assoc]

/-- The level test says of each of the six samples that it does not reach the level. -/
theorem preambleQuiet_iff {mag : Memory 16} {j high : Nat} :
    preambleQuiet mag j high = true ↔
      let m := fun x => sampleAt mag (j + x)
      m 4 < high ∧ m 5 < high ∧ m 11 < high ∧ m 12 < high ∧ m 13 < high ∧ m 14 < high := by
  simp only [preambleQuiet, Bool.and_eq_true, Bool.not_eq_true', Bool.or_eq_false_iff, decide_eq_false_iff_not,
    not_le, and_assoc]

/-- The value of PRECHK once the shape test has passed: the level above the two flags. -/
theorem prechkValue_of_shape (pass : Bool) {level : Nat} (h : level < 65536) :
    prechkValue pass true (BitVec.ofNat 16 level) = BitVec.ofNat 56 (pass.toNat + 2 + 65536 * level) := by
  have hpass : pass.toNat ≤ 1 := Bool.toNat_le pass
  refine BitVec.eq_of_toNat_eq ?_
  simp only [prechkValue, bit, toNat_append_add, BitVec.ofNat_eq_ofNat, BitVec.toNat_ofBool, BitVec.toNat_ofNat,
    Bool.toNat_true]
  omega

theorem exec_prechk_out_of_range {s : State} (hf : s.fatal = false) {j : BitVec 24}
    (hj : ¬ j.toNat + 14 < s.magLen.toNat) : exec (.prechk j) s = raise .range s :=
  (whenRunning_running hf _).trans (if_neg (mt prechkOk_iff.1 hj))

section InRange
variable {s : State} {j : BitVec 24} (hf : s.fatal = false) (hj : j.toNat + 14 < s.magLen.toNat)
include hf hj

theorem exec_prechk_in_range : exec (.prechk j) s =
    let v := preamble s.mag j.toNat
    respond (prechkValue v.pass v.shape v.high) (latchHigh v s) :=
  (whenRunning_running hf _).trans (if_pos (prechkOk_iff.2 hj))

theorem exec_prechk_of_not_shape (h : ¬ preambleShape s.mag j.toNat = true) :
    exec (.prechk j) s = .next { s with rsp := okAnswer 0 } := by
  have hverdict : preamble s.mag j.toNat = ⟨false, false, 0⟩ := if_neg h
  rw [exec_prechk_in_range hf hj, hverdict]
  rfl

/-- The answer and the write of HIGH, the level fitting 16 bits (`preambleLevel_le`). -/
theorem exec_prechk_of_shape (h : preambleShape s.mag j.toNat = true) {level : Nat}
    (hlevel : preambleLevel s.mag j.toNat = level) {pass : Bool} (hpass : preambleQuiet s.mag j.toNat level = pass) :
    exec (.prechk j) s =
      respond (BitVec.ofNat 56 (pass.toNat + 2 + 65536 * level)) { s with high := BitVec.ofNat 16 level } := by
  have hverdict : preamble s.mag j.toNat = ⟨pass, true, BitVec.ofNat 16 level⟩ := by
    rw [preamble, if_pos h, hlevel, hpass]
  have hfits : level < 65536 := hlevel ▸ (preambleLevel_le s.mag j.toNat).trans_lt (by decide)
  rw [exec_prechk_in_range hf hj, hverdict, ← prechkValue_of_shape _ hfits]
  rfl

end InRange

/-- Settles O31: the shape test decides whether HIGH is written, and the level test the lowest bit of the answer. -/
theorem prechkTestsThePreamble : Obligations.PrechkTestsThePreamble := by
  intro s j hf m shape high quiet
  have hshape : preambleShape s.mag j.toNat = true ↔ shape := preambleShape_iff
  have hquiet : preambleQuiet s.mag j.toNat high = true ↔ quiet := preambleQuiet_iff
  refine ⟨fun hj hs => ?_, fun hj ⟨hs, hq⟩ => ?_, fun hj ⟨hs, hq⟩ => ?_, fun hj => ?_, ?_, ?_⟩
  · exact exec_prechk_of_not_shape hf hj (mt hshape.1 hs)
  · exact exec_prechk_of_shape hf hj (hshape.2 hs) rfl (Bool.eq_false_iff.2 (mt hquiet.1 hq))
  · exact exec_prechk_of_shape hf hj (hshape.2 hs) rfl (hquiet.2 hq)
  · exact exec_prechk_out_of_range hf hj
  · exact preambleLevel_le s.mag j.toNat
  · exact commandWord_addrOperand 0x30 j

/-! ### PHDET (R144, R145) -/

theorem phdetOk_iff {j n : BitVec 24} : phdetOk j n = true ↔ 1 ≤ j.toNat ∧ j.toNat + 10 < n.toNat := by
  simp only [phdetOk, Bool.and_eq_true, decide_eq_true_eq]

/-- The two tests for +1 come before the two for -1 (R144). -/
theorem phase_eq (mag : Memory 16) (j : Nat) :
    phase mag j =
      let m := fun x => sampleAt mag (j + x)
      if m 3 > m 2 / 3 ∨ m 10 > m 9 / 3 then 1
      else if m 6 > m 7 / 3 ∨ sampleAt mag (j - 1) > m 1 / 3 then -1
      else 0 := by
  simp only [phase, ite_or]

theorem exec_phdet {s : State} (hf : s.fatal = false) (j : BitVec 24) :
    exec (.phdet j) s =
      if phdetOk j s.magLen then respond (BitVec.ofInt 56 (phase s.mag j.toNat)) s else raise .range s :=
  whenRunning_running hf _

theorem exec_phdet_in_range {s : State} (hf : s.fatal = false) {j : BitVec 24}
    (hj : 1 ≤ j.toNat ∧ j.toNat + 10 < s.magLen.toNat) {p : Int} (hp : phase s.mag j.toNat = p) :
    exec (.phdet j) s = respond (BitVec.ofInt 56 p) s := by
  rw [exec_phdet hf, if_pos (phdetOk_iff.2 hj), hp]

/-- Settles O32: each answer is the value of the phase test in its case (`phase_eq`), sign-extended. -/
theorem phdetReportsTheFirstBias : Obligations.PhdetReportsTheFirstBias := by
  intro s j hf m inRange late early
  have hphase : phase s.mag j.toNat = if late then 1 else if early then -1 else 0 := phase_eq s.mag j.toNat
  refine ⟨fun hj hl => ?_, fun hj ⟨hl, he⟩ => ?_, fun hj ⟨hl, he⟩ => ?_, fun hj => ?_, ?_⟩
  · exact exec_phdet_in_range hf hj (hphase.trans (if_pos hl))
  · exact exec_phdet_in_range hf hj (hphase.trans ((if_neg hl).trans (if_pos he)))
  · exact exec_phdet_in_range hf hj (hphase.trans ((if_neg hl).trans (if_neg he)))
  · rw [exec_phdet hf, if_neg (mt phdetOk_iff.1 hj)]
    rfl
  · exact commandWord_addrOperand 0x31 j

/-! ### PHCOR (R146, R147) -/

theorem phcorOk_iff {j n : BitVec 24} : phcorOk j n = true ↔ j.toNat + 238 < n.toNat := decide_eq_true_iff

theorem exec_phcor {s : State} (hf : s.fatal = false) (j : BitVec 24) :
    exec (.phcor j) s =
      if phcorOk j s.magLen then respond 0 { s with mag := correct s.mag j.toNat } else raise .range s :=
  whenRunning_running hf _

/-- Rescaling drops what does not fit a sample (R16 (d)). -/
theorem rescale_toNat (first second : Nat) (d : Sample) :
    (rescale first second d).toNat = (if first > second then d.toNat * 5 / 4 else d.toNat * 4 / 5) % 65536 := by
  unfold rescale
  split <;> rfl

section Correction
variable (mag : Memory 16) (j : Nat)

/-- `CORRECT(j)` stopped after its first `n` iterations (R146). -/
def correctFirst (n : Nat) : Memory 16 := (List.range n).foldl (correctStep j) mag

theorem correctFirst_all : correctFirst mag j 111 = correct mag j := rfl

theorem correctFirst_succ (n : Nat) : correctFirst mag j (n + 1) = correctStep j (correctFirst mag j n) n := by
  simp only [correctFirst, List.range_succ, List.foldl_append, List.foldl_cons, List.foldl_nil]

/-- Later iterations leave the samples below the place of iteration `n`. -/
theorem read_correctFirst_settled {n n' a : Nat} (hn : n ≤ n') (ha : a < j + 16 + 2 * n + 2) :
    (correctFirst mag j n').read a = (correctFirst mag j n).read a := by
  induction n', hn using Nat.le_induction with
  | base => rfl
  | succ n' hn ih => rw [correctFirst_succ, read_correctStep, if_neg (by omega), ih]

/-- The correction as a recurrence: the first sample of a bit is rescaled by the first sample of the bit before it as
already rewritten, and by that bit's second sample, which is never rewritten. -/
theorem read_correct_rewritten {k : Nat} (hk : k < 111) :
    (correct mag j).read (j + 16 + 2 * k + 2) =
      rescale (sampleAt (correct mag j) (j + 16 + 2 * k)) (sampleAt mag (j + 16 + 2 * k + 1))
        (mag.read (j + 16 + 2 * k + 2)) := by
  rw [← correctFirst_all]
  have hself : (correctFirst mag j 111).read (j + 16 + 2 * k + 2) =
      (correctFirst mag j (k + 1)).read (j + 16 + 2 * k + 2) := read_correctFirst_settled mag j hk (by omega)
  have hfirst : (correctFirst mag j 111).read (j + 16 + 2 * k) = (correctFirst mag j k).read (j + 16 + 2 * k) :=
    read_correctFirst_settled mag j hk.le (by omega)
  have hsecond : (correctFirst mag j k).read (j + 16 + 2 * k + 1) = mag.read (j + 16 + 2 * k + 1) :=
    read_correct_prefix j mag k _ fun i _ => by omega
  have hold : (correctFirst mag j k).read (j + 16 + 2 * k + 2) = mag.read (j + 16 + 2 * k + 2) :=
    read_correct_prefix j mag k _ fun i _ => by omega
  rw [hself, correctFirst_succ, read_correctStep, if_pos rfl, hold]
  simp only [sampleAt, hfirst, hsecond]

/-- No iteration writes any other sample: neither the second samples of the bits nor the first one of bit 0. -/
theorem read_correct_unwritten {a : Nat} (ha : ∀ k < 111, a ≠ j + 16 + 2 * k + 2) :
    (correct mag j).read a = mag.read a :=
  read_correct_prefix j mag 111 a ha

end Correction

/-- Settles O33: the vector is the one that `correct` leaves. -/
theorem phcorRescalesInPlace : Obligations.PhcorRescalesInPlace := by
  intro s j hf
  refine ⟨fun hj => ⟨correct s.mag j.toNat, ?_, fun k hk => ?_, fun a ha => ?_⟩, fun hj => ?_, ?_⟩
  · rw [exec_phcor hf, if_pos (phcorOk_iff.2 hj), respond_zero]
  · rw [read_correct_rewritten s.mag j.toNat hk, rescale_toNat]
    rfl
  · exact read_correct_unwritten s.mag j.toNat ha
  · rw [exec_phcor hf, if_neg (mt phcorOk_iff.1 hj)]
    rfl
  · exact commandWord_addrOperand 0x32 j

end Sys2Proof.Machine
end

section
/-! SUPPORT. The bit slicer and the quality gate (O34 to O36): the symbol of a bit from its samples and the symbol before
it, the error that only bit 0 can count, and the mean difference as a number that fits the answer. -/

namespace Sys2Proof.Machine

theorem absDiff_lt {a b n : Nat} (ha : a < n) (hb : b < n) : absDiff a b < n := by
  unfold absDiff; omega

theorem absDiff_self (a : Nat) : absDiff a a = 0 := by simp [absDiff]

/-! ### One bit (R162) -/

theorem repeats_iff {k a b : Nat} : repeats k a b = true ↔ 0 < k ∧ absDiff a b < 256 := by
  rw [repeats, Bool.and_eq_true, decide_eq_true_iff, decide_eq_true_iff, Config.margin]

theorem sliceSymbol_of_repeats {k a b : Nat} (prev : Symbol) (h : 0 < k ∧ absDiff a b < 256) :
    sliceSymbol k prev a b = prev := if_pos (repeats_iff.2 h)

theorem sliceSymbol_of_not_repeats {k a b : Nat} (prev : Symbol) (h : ¬ (0 < k ∧ absDiff a b < 256)) :
    sliceSymbol k prev a b = classify a b := if_neg (mt repeats_iff.1 h)

theorem classify_of_eq {a b : Nat} (h : a = b) : classify a b = .ambiguous := if_pos h

theorem classify_of_gt {a b : Nat} (h : a > b) : classify a b = .one := (if_neg h.ne').trans (if_pos h)

theorem classify_of_lt {a b : Nat} (h : a < b) : classify a b = .zero := (if_neg h.ne).trans (if_neg h.not_gt)

theorem classify_eq_ambiguous_iff {a b : Nat} : classify a b = .ambiguous ↔ a = b := by
  rcases lt_trichotomy a b with h | h | h
  · simp [classify_of_lt h, h.ne]
  · exact iff_of_true (classify_of_eq h) h
  · simp [classify_of_gt h, h.ne']

/-- An ambiguous symbol is that of the bit before, or is made at bit 0: the equal samples of a later bit repeat. -/
theorem sliceSymbol_eq_ambiguous {k a b : Nat} {prev : Symbol} (h : sliceSymbol k prev a b = .ambiguous) :
    (0 < k ∧ absDiff a b < 256 ∧ prev = .ambiguous) ∨ (k = 0 ∧ a = b) := by
  by_cases hr : 0 < k ∧ absDiff a b < 256
  · exact .inl ⟨hr.1, hr.2, by rwa [sliceSymbol_of_repeats prev hr] at h⟩
  · rw [sliceSymbol_of_not_repeats prev hr, classify_eq_ambiguous_iff] at h
    rw [h, absDiff_self] at hr
    exact .inr ⟨by omega, h⟩

/-! ### The 112 bits (R161, R162, R166) -/

/-- Every symbol of the loop, from its samples and the symbol before it. -/
theorem sliceFrom_getD (k : Nat) (prev : Symbol) (e : BitVec 6) (l : List (Nat × Nat)) {i : Nat} (hi : i < l.length) :
    (sliceFrom k prev e l).1.getD i .zero =
      sliceSymbol (k + i) ((prev :: (sliceFrom k prev e l).1).getD i .zero) (l.getD i (0, 0)).1 (l.getD i (0, 0)).2 := by
  induction l generalizing k prev e i with
  | nil => cases hi
  | cons d rest ih =>
    cases i with
    | zero => rfl
    | succ i =>
      obtain ⟨a, b⟩ := d
      have hlater := ih (k + 1) (sliceSymbol k prev a b) (if countsError k a b then e + 1 else e)
        (Nat.lt_of_succ_lt_succ hi)
      rwa [Nat.add_right_comm] at hlater

theorem sliceBits_getD (mag : Memory 16) (j : Nat) {k : Nat} (hk : k < 112) :
    (sliceBits mag j).1.getD k .zero =
      sliceSymbol k ((sliceBits mag j).1.getD (k - 1) .zero) (bitSamples mag j k).1 (bitSamples mag j k).2 := by
  have hstep := sliceFrom_getD 0 .zero 0 ((List.range Config.longBits).map (bitSamples mag j)) (i := k)
    (by simpa [Config.longBits] using hk)
  have hsamples : ((List.range Config.longBits).map (bitSamples mag j)).getD k (0, 0) = bitSamples mag j k := by
    simp [List.getD_eq_getElem?_getD, Config.longBits, hk]
  rw [hsamples, Nat.zero_add] at hstep
  cases k with
  | zero => exact hstep
  | succ k => exact hstep

/-- ERRORS after a slice: only bit 0 can count (`sliceFrom_errors`). -/
theorem sliceBits_errors (mag : Memory 16) (j : Nat) :
    (sliceBits mag j).2 = if (bitSamples mag j 0).1 = (bitSamples mag j 0).2 then 1 else 0 := by
  have hsplit : (List.range Config.longBits).map (bitSamples mag j) =
      bitSamples mag j 0 :: ((List.range 111).map Nat.succ).map (bitSamples mag j) := by
    rw [Config.longBits, List.range_succ_eq_map, List.map_cons]
  have hcount : ∀ a b, countsError 0 a b = (a == b) := fun a b => by simp [countsError, repeats, Config.shortBits]
  rw [sliceBits, hsplit]
  simp only [sliceFrom, sliceFrom_errors Nat.one_pos, hcount, beq_iff_eq]
  rfl

theorem sliceBits_errors_toNat (mag : Memory 16) (j : Nat) :
    (sliceBits mag j).2.toNat = (decide ((bitSamples mag j 0).1 = (bitSamples mag j 0).2)).toNat := by
  by_cases h : (bitSamples mag j 0).1 = (bitSamples mag j 0).2
  · rw [sliceBits_errors, if_pos h, decide_eq_true h]
    rfl
  · rw [sliceBits_errors, if_neg h, decide_eq_false h]
    rfl

/-- A count in which only 0 can count. -/
theorem length_filter_range_of_first (n : Nat) {p : Nat → Bool} (h : ∀ k, 0 < k → p k = false) :
    ((List.range (n + 1)).filter p).length = (p 0).toNat := by
  have hrest : ((List.range n).map Nat.succ).filter p = [] := by simp [h]
  rw [List.range_succ_eq_map, List.filter_cons, hrest]
  cases p 0 <;> rfl

/-- An ambiguous symbol has come from bit 0 through bits that all repeat (R163). -/
theorem ambiguous_from_first (mag : Memory 16) (j : Nat) {k : Nat} (hk : k < 112)
    (h : (sliceBits mag j).1.getD k .zero = .ambiguous) :
    (bitSamples mag j 0).1 = (bitSamples mag j 0).2 ∧
      ∀ k', 0 < k' → k' ≤ k → absDiff (bitSamples mag j k').1 (bitSamples mag j k').2 < 256 := by
  rw [sliceBits_getD mag j hk] at h
  induction k with
  | zero =>
    rcases sliceSymbol_eq_ambiguous h with ⟨hpos, -⟩ | ⟨-, heq⟩
    · exact absurd hpos (lt_irrefl 0)
    · exact ⟨heq, fun k' hpos hle => absurd hpos (Nat.not_lt.2 hle)⟩
  | succ k ih =>
    rcases sliceSymbol_eq_ambiguous h with ⟨-, hclose, hprev⟩ | ⟨hzero, -⟩
    · rw [Nat.add_sub_cancel, sliceBits_getD mag j (by omega)] at hprev
      obtain ⟨hfirst, hbetween⟩ := ih (by omega) hprev
      refine ⟨hfirst, fun k' hpos hle => ?_⟩
      rcases Nat.le_succ_iff.1 hle with hle | rfl
      · exact hbetween k' hpos hle
      · exact hclose
    · exact absurd hzero (Nat.succ_ne_zero k)

/-- Settles O35: every step back from an ambiguous bit is a repeat, down to bit 0 (`ambiguous_from_first`). -/
theorem ambiguityStartsAtTheFirstBit : Obligations.AmbiguityStartsAtTheFirstBit := by
  intro mag j
  have hfirst : (bitSamples mag j 0).1 = (bitSamples mag j 0).2 ↔ mag.read (j + 16) = mag.read (j + 17) :=
    BitVec.toNat_inj
  exact ⟨fun k hk h => ambiguous_from_first mag j hk h, (sliceBits_errors mag j).trans (if_congr hfirst rfl rfl)⟩

/-! ### Packing, format and length (R164, R165) -/

/-- A packed byte, the first of its eight symbols most significant; the symbol 2 reaches into the place above its own. -/
theorem packByte_eq (bits : Vector Symbol 112) (n : Nat) :
    let sym := fun t => symbolNat (symbolAt bits (8 * n + t))
    packByte bits n = BitVec.ofNat 8 (((((((sym 0 <<< 7 ||| sym 1 <<< 6) ||| sym 2 <<< 5) ||| sym 3 <<< 4)
      ||| sym 4 <<< 3) ||| sym 5 <<< 2) ||| sym 6 <<< 1) ||| sym 7) := by
  have hplaces : List.range 8 = [0, 1, 2, 3, 4, 5, 6, 7] := rfl
  simp only [packByte, hplaces, List.foldl_cons, List.foldl_nil, Nat.zero_or]
  rfl

theorem formatField_toNat (M : Msg) : (formatField M).toNat = (msgByte M 0).toNat / 8 := by
  have hbyte := (msgByte M 0).isLt
  rw [formatField, BitVec.toNat_setWidth, BitVec.toNat_ushiftRight, Nat.shiftRight_eq_div_pow]
  omega

/-- The latched length in terms of the format as a number (R165). -/
theorem lengthOf_eq (df : BitVec 5) :
    lengthOf df = if df.toNat ∈ [0, 4, 5, 16, 17, 20, 21, 24] then 112 else 56 := by
  have hmem : Config.defaults.longDfSet.contains df = true ↔ df.toNat ∈ [0, 4, 5, 16, 17, 20, 21, 24] := by
    rw [List.contains_iff_mem]
    exact (List.mem_map_of_injective BitVec.toNat_injective (l := Config.defaults.longDfSet)).symm
  exact ite_congr (propext hmem) (fun _ => rfl) fun _ => rfl

theorem ofNat_lengthOf_toNat (df : BitVec 5) : (BitVec.ofNat 7 (lengthOf df)).toNat = lengthOf df := by
  rcases lengthOf_cases df with h | h <;> rw [h] <;> rfl

/-! ### SLICE (R167) -/

theorem sliceOk_iff {j n : BitVec 24} : sliceOk j n = true ↔ j.toNat + 239 < n.toNat := decide_eq_true_iff

theorem isLong_eq (s : State) : isLong s = decide (s.msgBits = 112) := by
  rw [isLong, Bool.eq_iff_iff, beq_iff_eq, decide_eq_true_iff, ← BitVec.toNat_inj]
  rfl

theorem sliceValue_eq (errors : BitVec 6) (long : Bool) (df : BitVec 5) :
    sliceValue errors long df = BitVec.ofNat 56 (df.toNat + (if long then 32 else 0) + 256 * errors.toNat) := by
  have hdf := df.isLt
  have herrors := errors.isLt
  have hlong : (if long then 32 else 0) = 32 * long.toNat := by cases long <;> rfl
  have hbit : long.toNat ≤ 1 := Bool.toNat_le long
  refine BitVec.eq_of_toNat_eq ?_
  simp only [sliceValue, bit, toNat_append_add, BitVec.ofNat_eq_ofNat, BitVec.toNat_ofBool, BitVec.toNat_ofNat, hlong]
  omega

theorem exec_slice {s : State} (hf : s.fatal = false) (j : BitVec 24) :
    exec (.slice j) s =
      if sliceOk j s.magLen then
        let t := latchedSlice s.mag j.toNat s
        respond (sliceValue t.errors (isLong t) t.df0) t
      else raise .range s := by
  simp only [← latchLength_writeSlice]
  exact whenRunning_running hf _

/-- The next state of a slice in range, whole. -/
theorem exec_slice_in_range {s : State} (hf : s.fatal = false) {j : BitVec 24} (hj : j.toNat + 239 < s.magLen.toNat)
    {B : Vector Symbol 112} (hB : symbolVector (sliceBits s.mag j.toNat).1 = B) {e : BitVec 6}
    (he : (sliceBits s.mag j.toNat).2 = e) {d : BitVec 5} (hd : formatField (packBits B) = d) {n : BitVec 7}
    (hn : BitVec.ofNat 7 (lengthOf d) = n) :
    exec (.slice j) s = .next { s with
      bits := B, msg := packBits B, errors := e, df0 := d, msgBits := n
      rsp := okAnswer (d.toNat + (if n = 112 then 32 else 0) + 256 * e.toNat) } := by
  have hlatched : latchedSlice s.mag j.toNat s =
      { s with bits := B, msg := packBits B, errors := e, df0 := d, msgBits := n } := by
    simp only [latchedSlice, latchLength, hB, he, hd, hn]
  rw [exec_slice hf, if_pos (sliceOk_iff.2 hj), hlatched]
  simp only [isLong_eq, sliceValue_eq, decide_eq_true_eq]
  rfl

/-- Settles O34: the symbols are those of the loop, bit by bit (`sliceBits_getD`), and the count is bit 0's alone. -/
theorem sliceClassifiesAndPacks : Obligations.SliceClassifiesAndPacks := by
  intro s j hf a b repeated
  refine ⟨fun hj => ⟨_, _, _, _, _, exec_slice_in_range hf hj rfl rfl rfl rfl, fun k hk => ?_, ?_,
    fun y hy => ?_, ?_, ?_⟩, fun hj => ?_, ?_⟩
  · rw [symbolAt_symbolVector _ _ hk, symbolAt_symbolVector _ _ (by omega), sliceBits_getD _ _ hk]
    refine ⟨fun hr => sliceSymbol_of_repeats _ hr, fun hr hab => ?_, fun hr hab => ?_, fun hr hab => ?_⟩
    · exact (sliceSymbol_of_not_repeats _ hr).trans (classify_of_eq hab)
    · exact (sliceSymbol_of_not_repeats _ hr).trans (classify_of_gt hab)
    · exact (sliceSymbol_of_not_repeats _ hr).trans (classify_of_lt hab)
  · have hlater : ∀ k, 0 < k → decide (¬ repeated k ∧ a k = b k) = false := fun k hk =>
      decide_eq_false fun ⟨hnot, hab⟩ => hnot ⟨hk, by omega⟩
    have hfirst : (¬ repeated 0 ∧ a 0 = b 0) ↔ a 0 = b 0 := and_iff_right fun hr => lt_irrefl 0 hr.1
    calc (sliceBits s.mag j.toNat).2.toNat
        = (decide (a 0 = b 0)).toNat := sliceBits_errors_toNat s.mag j.toNat
      _ = (decide (¬ repeated 0 ∧ a 0 = b 0)).toNat := congrArg Bool.toNat (decide_eq_decide.2 hfirst.symm)
      _ = _ := (length_filter_range_of_first 55 hlater).symm
  · rw [msgByte_packBits _ _ hy]
    exact packByte_eq _ y
  · exact formatField_toNat _
  · rw [ofNat_lengthOf_toNat]
    exact lengthOf_eq _
  · rw [exec_slice hf, if_neg (mt sliceOk_iff.1 hj)]
    rfl
  · exact commandWord_addrOperand 0x40 j

/-! ### QUAL (R168, R169) -/

theorem bitsOk_iff {bits : BitVec 8} : bitsOk bits = true ↔ bits.toNat = 56 ∨ bits.toNat = 112 := by
  rw [bitsOk, Bool.or_eq_true, beq_iff_eq, beq_iff_eq, Config.shortBits, Config.longBits]

theorem qualOk_iff {j n : BitVec 24} {bits : Nat} : qualOk j n bits = true ↔ j.toNat + 15 + 2 * bits < n.toNat :=
  decide_eq_true_iff

theorem qualityPasses_iff {q : Nat} : qualityPasses q = true ↔ 2550 ≤ q := decide_eq_true_iff

/-- The mean of differences of samples is no more than a sample can be. -/
theorem quality_le (mag : Memory 16) (j bits : Nat) : quality mag j bits ≤ 65535 := by
  have hdelta : ∀ d ∈ (List.range bits).map fun k => absDiff (bitSamples mag j k).1 (bitSamples mag j k).2,
      d ≤ 65535 := by
    intro d hd
    obtain ⟨k, -, rfl⟩ := List.mem_map.1 hd
    exact Nat.le_of_lt_succ (absDiff_lt (mag.read _).isLt (mag.read _).isLt)
  have hsum := List.sum_le_card_nsmul _ _ hdelta
  rw [List.length_map, List.length_range, smul_eq_mul] at hsum
  exact Nat.div_le_of_le_mul hsum

theorem qualValue_eq (pass : Bool) {q : Nat} (hq : q ≤ 65535) :
    qualValue pass (BitVec.ofNat 16 q) = BitVec.ofNat 56 (q + 65536 * pass.toNat) := by
  have hpass : pass.toNat ≤ 1 := Bool.toNat_le pass
  refine BitVec.eq_of_toNat_eq ?_
  simp only [qualValue, bit, toNat_append_add, BitVec.ofNat_eq_ofNat, BitVec.toNat_ofBool, BitVec.toNat_ofNat]
  omega

/-- QUAL's word field by field (R92, format JB), associated from the left. -/
theorem encode_qual (j : BitVec 24) (bits : BitVec 8) : encode (.qual j bits) = 0x41#8 ++ 0#24 ++ bits ++ j := by
  have hpair : 0x41#8 ++ 0#24 ++ (bits ++ j) = 0x41#8 ++ (0#24 ++ (bits ++ j)) := BitVec.append_assoc
  have hfields : 0x41#8 ++ 0#24 ++ bits ++ j = 0x41#8 ++ 0#24 ++ (bits ++ j) := BitVec.append_assoc
  exact (hfields.trans hpair).symm

section Qual
variable {s : State} (hf : s.fatal = false) {j : BitVec 24} {bits : BitVec 8}
include hf

theorem exec_qual_bad_bits (hb : ¬ (bits.toNat = 56 ∨ bits.toNat = 112)) :
    exec (.qual j bits) s = .next { s with rsp := errorAnswer .bits } := by
  have hbad : (!bitsOk bits) = true := by rw [Bool.not_eq_true', Bool.eq_false_iff]; exact mt bitsOk_iff.1 hb
  exact (whenRunning_running hf _).trans (if_pos hbad)

/-- Past the check of `bits`, the check of the range decides. -/
theorem exec_qual_of_bits (hb : bits.toNat = 56 ∨ bits.toNat = 112) :
    exec (.qual j bits) s =
      if qualOk j s.magLen bits.toNat then
        let q := quality s.mag j.toNat bits.toNat
        respond (qualValue (qualityPasses q) (BitVec.ofNat 16 q)) s
      else raise .range s := by
  have hgood : ¬ (!bitsOk bits) = true := by rw [bitsOk_iff.2 hb]; decide
  exact (whenRunning_running hf _).trans (if_neg hgood)

theorem exec_qual_in_range (hb : bits.toNat = 56 ∨ bits.toNat = 112)
    (hj : j.toNat + 15 + 2 * bits.toNat < s.magLen.toNat) {q : Nat} (hq : quality s.mag j.toNat bits.toNat = q) :
    exec (.qual j bits) s = .next { s with rsp := okAnswer (q + 65536 * (qualityPasses q).toNat) } := by
  rw [exec_qual_of_bits hf hb, if_pos (qualOk_iff.2 hj), hq]
  exact congrArg (respond · s) (qualValue_eq _ (hq ▸ quality_le _ _ _))

end Qual

/-- Settles O36: the checks in their order, then the answer, the mean fitting 16 bits (`quality_le`). -/
theorem qualMeasuresTheMeanDifference : Obligations.QualMeasuresTheMeanDifference := by
  intro s j bits hf delta q inRange
  have hq : quality s.mag j.toNat bits.toNat = q := rfl
  refine ⟨fun _ => hq ▸ quality_le _ _ _, fun ⟨hb, hj, hpass⟩ => ?_, fun ⟨hb, hj, hweak⟩ => ?_,
    fun hb => exec_qual_bad_bits hf hb, fun ⟨hb, hj⟩ => ?_, encode_qual j bits⟩
  · rw [exec_qual_in_range hf hb hj hq, qualityPasses_iff.2 hpass]
    rfl
  · rw [exec_qual_in_range hf hb hj hq, Bool.eq_false_iff.2 (mt qualityPasses_iff.1 (Nat.not_le.2 hweak))]
    rfl
  · rw [exec_qual_of_bits hf hb, if_neg (mt qualOk_iff.1 hj)]
    rfl

end Sys2Proof.Machine
end

section
/-! SUPPORT. The checksum (O37 to O40): the loop over the message bits that the model's recursion is, what one flipped bit
does to it, and the received checksum as a field of the message. -/

namespace Sys2Proof.Machine

/-- The word of a command of format K8, field by field (R91, R92). -/
theorem commandWord_byteOperand (op k : BitVec 8) : commandWord op (byteOperand k) = op ++ 0#48 ++ k := by
  have hassoc : op ++ 0#48 ++ k = op ++ (0#48 ++ k) := BitVec.append_assoc
  exact hassoc.symm

/-! ### The table (R182, R183) -/

/-- The last 24 entries contribute nothing (R181), nor does a position past the table. -/
theorem crctabEntry_of_ge {k : Nat} (hk : 88 ≤ k) : crctabEntry k = 0 := by
  have hsplit : Config.crctab = Config.crctab.take 88 ++ List.replicate 24 0 := rfl
  have hlength : (Config.crctab.take 88).length = 88 := rfl
  have hentry : crctabEntry k = (Config.crctab.take 88 ++ List.replicate 24 0).getD k 0 := congrArg (·.getD k 0) hsplit
  rw [hentry, List.getD_append_right _ _ _ _ (hlength.le.trans hk), List.getD_eq_getElem?_getD,
    List.getElem?_getD_replicate_default_eq]

theorem index112Ok_iff {k : BitVec 8} : index112Ok k = true ↔ k.toNat ≤ 111 :=
  decide_eq_true_iff.trans Nat.lt_succ_iff

theorem exec_crctab {s : State} (hf : s.fatal = false) (k : BitVec 8) :
    exec (.crctab k) s =
      if index112Ok k then respond ((crctabEntry k.toNat).setWidth 56) s else raise .range s :=
  whenRunning_running hf _

/-- Settles O37: the table is the model's; the generation rule is checked entry by entry, as R182 says of its list. -/
theorem crctabFollowsTheGenerator : Obligations.CrctabFollowsTheGenerator := by
  refine ⟨fun k => (crctabEntry k).toNat, rfl, by decide +kernel, fun k hk => ?_,
    fun s k hf => ⟨fun hk => ?_, fun hk => ?_, ?_⟩⟩
  · exact congrArg BitVec.toNat (crctabEntry_of_ge hk)
  · rw [exec_crctab hf, if_pos (index112Ok_iff.2 hk), respond_next, okAnswer, BitVec.ofNat_toNat]
    rfl
  · rw [exec_crctab hf, if_neg (mt index112Ok_iff.1 (Nat.not_le.2 hk))]
    rfl
  · exact commandWord_byteOperand 0x55 k

/-! ### The checksum as a loop (R184) -/

/-- The loop of `CHECKSUM` stopped after its first `n` message bits, with the table's entries from `off` on. -/
def checksumFirst (M : Msg) (off n : Nat) : Word24 :=
  (List.range n).foldl (fun c k => if M.getMsbD k then c ^^^ crctabEntry (k + off) else c) 0

theorem checksumFirst_zero (M : Msg) (off : Nat) : checksumFirst M off 0 = 0 := rfl

theorem checksumFirst_succ (M : Msg) (off n : Nat) :
    checksumFirst M off (n + 1) =
      checksumFirst M off n ^^^ if M.getMsbD n then crctabEntry (n + off) else 0 := by
  simp only [checksumFirst, List.range_succ, List.foldl_append, List.foldl_cons, List.foldl_nil]
  split
  · rfl
  · exact BitVec.xor_zero.symm

theorem xorEntries_append_singleton (M : Msg) (k : Nat) (l : List Word24) (e : Word24) :
    xorEntries M k (l ++ [e]) = xorEntries M k l ^^^ if msgBit M (k + l.length) then e else 0 := by
  induction l generalizing k with
  | nil => simp [xorEntries]
  | cons d rest ih =>
    have hplace : k + 1 + rest.length = k + (d :: rest).length := by rw [List.length_cons]; omega
    simp only [List.cons_append, xorEntries, ih, hplace]
    split
    · exact (BitVec.xor_assoc _ _ _).symm
    · rfl

/-- The model's recursion over the table's entries is the loop over the message bits. -/
theorem xorEntries_take_drop (M : Msg) {off n : Nat} (h : n + off ≤ 112) :
    xorEntries M 0 ((Config.crctab.drop off).take n) = checksumFirst M off n := by
  induction n with
  | zero => rfl
  | succ n ih =>
    have hlength : Config.crctab.length = 112 := rfl
    have hn : n < (Config.crctab.drop off).length := by rw [List.length_drop, hlength]; omega
    have hentry : (Config.crctab.drop off)[n] = crctabEntry (n + off) := by
      rw [List.getElem_drop, Nat.add_comm n, ← List.getD_eq_getElem _ 0]
      rfl
    have hplace : 0 + ((Config.crctab.drop off).take n).length = n := by rw [List.length_take]; omega
    rw [← List.take_concat_get' _ n hn, xorEntries_append_singleton, ih (by omega), hplace, hentry, checksumFirst_succ]
    rfl

section Length
variable {bits : Nat} (hb : bits = 56 ∨ bits = 112)
include hb

/-- A message of the length ends where the table does. -/
theorem add_tableOffset : bits + tableOffset bits = 112 := by
  rcases hb with rfl | rfl <;> rfl

theorem checksum_eq_first (M : Msg) : checksum M bits = checksumFirst M (tableOffset bits) bits :=
  xorEntries_take_drop M (add_tableOffset hb).le

/-- Only the bits above the received checksum count: the entries of the last 24 are 0 (R181). -/
theorem checksum_congr {M N : Msg} (h : ∀ k < bits - 24, M.getMsbD k = N.getMsbD k) :
    checksum M bits = checksum N bits := by
  rw [checksum_eq_first hb, checksum_eq_first hb]
  suffices hfirst : ∀ n ≤ bits, checksumFirst M (tableOffset bits) n = checksumFirst N (tableOffset bits) n from
    hfirst bits le_rfl
  intro n hn
  induction n with
  | zero => rfl
  | succ n ih =>
    have hoffset := add_tableOffset hb
    rw [checksumFirst_succ, checksumFirst_succ, ih (by omega)]
    by_cases hk : n < bits - 24
    · rw [h n hk]
    · rw [crctabEntry_of_ge (by omega), ite_self, ite_self]

end Length

/-! ### One flipped bit (R186 (a)) -/

theorem getMsbD_flipBit (M : Msg) {k : Nat} (hk : k < 112) (i : Nat) :
    (flipBit M k).getMsbD i = (M.getMsbD i ^^ decide (i = k)) := by
  have hplace : i + (111 - k) = 111 ↔ i = k := by omega
  rw [flipBit, BitVec.getMsbD_xor, BitVec.getMsbD_shiftLeft, BitVec.getMsbD_one]
  simp [hplace]

theorem checksumFirst_flipBit (M : Msg) (off : Nat) {k : Nat} (hk : k < 112) (n : Nat) :
    checksumFirst (flipBit M k) off n = checksumFirst M off n ^^^ if k < n then crctabEntry (k + off) else 0 := by
  induction n with
  | zero => simp [checksumFirst_zero]
  | succ n ih =>
    rw [checksumFirst_succ, checksumFirst_succ, ih, getMsbD_flipBit M hk]
    rcases Nat.lt_trichotomy n k with h | rfl | h
    · simp [h.ne, show ¬ k < n by omega, show ¬ k < n + 1 by omega]
    · cases M.getMsbD n <;> simp
    · simp [h.ne', h, show k < n + 1 by omega, BitVec.xor_assoc, BitVec.xor_comm (crctabEntry (k + off))]

/-- Flipping one bit changes the checksum by the table's entry. -/
theorem checksum_flipBit (M : Msg) {bits k : Nat} (hb : bits = 56 ∨ bits = 112) (hk : k < bits) :
    checksum (flipBit M k) bits = checksum M bits ^^^ crctabEntry (k + tableOffset bits) := by
  rw [checksum_eq_first hb, checksum_eq_first hb, checksumFirst_flipBit M _ (by omega), if_pos hk]

/-- Settles O39. -/
theorem checksumIsLinear : Obligations.ChecksumIsLinear := fun M _ =>
  ⟨fun hk => checksum_flipBit M (.inr rfl) hk, fun hk => checksum_flipBit M (.inl rfl) hk⟩

/-! ### The received checksum (R65, R184) -/

/-- Three consecutive bytes are 24 consecutive bits. -/
theorem bytes24_eq_extract (M : Msg) {n : Nat} (hn : n ≤ 11) : bytes24 M n = M.extractLsb' (8 * (11 - n)) 24 := by
  have hfirst : 8 * (13 - n) = 8 * (13 - (n + 1)) + 8 := by omega
  have hsecond : 8 * (13 - (n + 1)) = 8 * (11 - n) + 8 := by omega
  have hthird : 8 * (13 - (n + 2)) = 8 * (11 - n) := by omega
  have hpair : msgByte M n ++ msgByte M (n + 1) = M.extractLsb' (8 * (13 - (n + 1))) 16 := by
    rw [msgByte, msgByte, hfirst]
    exact BitVec.extractLsb'_append_extractLsb'_eq_extractLsb' rfl
  rw [bytes24, hpair, msgByte, hsecond, hthird]
  exact BitVec.extractLsb'_append_extractLsb'_eq_extractLsb' rfl

/-- The received checksum stands at the end of the message, in the message's place among the 112 bits. -/
theorem rxCrc_eq_extract (M : Msg) {bits : Nat} (hb : bits = 56 ∨ bits = 112) :
    rxCrc M bits = M.extractLsb' (tableOffset bits) 24 := by
  rcases hb with rfl | rfl <;> exact bytes24_eq_extract M (by decide)

theorem bytes24_toNat (M : Msg) (n : Nat) :
    (bytes24 M n).toNat =
      (msgByte M n).toNat * 65536 + (msgByte M (n + 1)).toNat * 256 + (msgByte M (n + 2)).toNat := by
  simp only [bytes24, toNat_append_add]
  omega

theorem validMsg_iff {M : Msg} {bits : Nat} : validMsg M bits = true ↔ checksum M bits = rxCrc M bits := beq_iff_eq

/-- The bits above an appended vector. -/
theorem getMsbD_append_of_lt {n m k : Nat} (x : BitVec n) (y : BitVec m) (hk : k < n) :
    (x ++ y).getMsbD k = x.getMsbD k :=
  BitVec.getMsbD_append.trans (if_neg (Nat.not_le.2 hk))

/-- Settles O40: the received field is the checksum that was put there, and what stands there does not count
(`checksum_congr`). -/
theorem checksumRoundTrip : Obligations.ChecksumRoundTrip := by
  refine ⟨fun head => validMsg_iff.2 ?_, fun head tail => validMsg_iff.2 ?_⟩
  · have hreceived : ∀ c : Word24, rxCrc (head ++ c) 112 = c := fun c =>
      (rxCrc_eq_extract _ (.inr rfl)).trans BitVec.extractLsb'_append_eq_right
    have hhead : ∀ (c : Word24) (k : Nat), k < 88 → BitVec.getMsbD (w := 112) (head ++ c) k = head.getMsbD k :=
      fun c k hk => getMsbD_append_of_lt head c hk
    rw [hreceived]
    exact checksum_congr (.inr rfl) fun k hk => (hhead _ k hk).trans (hhead _ k hk).symm
  · have hreceived : ∀ c : Word24, rxCrc (head ++ c ++ tail) 56 = c := fun c =>
      (rxCrc_eq_extract _ (.inl rfl)).trans
        ((BitVec.extractLsb'_append_eq_of_le le_rfl).trans BitVec.extractLsb'_append_eq_right)
    have hhead : ∀ (c : Word24) (k : Nat), k < 32 → BitVec.getMsbD (w := 112) (head ++ c ++ tail) k = head.getMsbD k :=
      fun c k hk => (getMsbD_append_of_lt (head ++ c) tail (by omega)).trans (getMsbD_append_of_lt head c hk)
    rw [hreceived]
    exact checksum_congr (.inl rfl) fun k hk => (hhead _ k hk).trans (hhead _ k hk).symm

/-! ### CRC (R185) -/

theorem crcValue_eq (received computed : Word24) :
    crcValue received computed = BitVec.ofNat 56 (computed.toNat + 2 ^ 24 * received.toNat) := by
  have hcomputed := computed.isLt
  have hreceived := received.isLt
  refine BitVec.eq_of_toNat_eq ?_
  simp only [crcValue, toNat_append_add, BitVec.ofNat_eq_ofNat, BitVec.toNat_ofNat]
  omega

theorem exec_crc {s : State} (hf : s.fatal = false) (bits : BitVec 8) :
    exec (.crc bits) s =
      if bitsOk bits then respond (crcValue (rxCrc s.msg bits.toNat) (checksum s.msg bits.toNat)) s
      else raise .bits s :=
  whenRunning_running hf _

/-- Settles O38. -/
theorem crcAnswersComputedAndReceived : Obligations.CrcAnswersComputedAndReceived := by
  intro s bits hf
  refine ⟨fun hb => ⟨checksum s.msg bits.toNat, rxCrc s.msg bits.toNat, ?_, ?_, ?_, validMsg_iff⟩, fun hb => ?_, ?_⟩
  · rw [exec_crc hf, if_pos (bitsOk_iff.2 hb), crcValue_eq]
    rfl
  · exact checksum_eq_first hb s.msg
  · have hsecond : bits.toNat / 8 - 3 + 1 = bits.toNat / 8 - 2 := by omega
    have hthird : bits.toNat / 8 - 3 + 2 = bits.toNat / 8 - 1 := by omega
    rw [rxCrc, bytes24_toNat, hsecond, hthird]
  · rw [exec_crc hf, if_neg (mt bitsOk_iff.1 hb)]
    rfl
  · exact commandWord_byteOperand 0x50 bits

end Sys2Proof.Machine
end

section
/-! SUPPORT. The searches of the corrector and the address lookup (O41, O43, O45): the first position or pair of a search,
and the answers of FIX1, FIX2 and APCHK as numbers. -/

namespace Sys2Proof.Machine

/-! ### FIX1 (R187) -/

theorem fixOne_eq_some_iff {M : Msg} {bits p : Nat} :
    fixOne M bits = some p ↔
      p < bits ∧ validMsg (flipBit M p) bits = true ∧ ∀ p' < p, validMsg (flipBit M p') bits = false := by
  refine ⟨fixOne_some, fun ⟨hp, hvalid, hmin⟩ => ?_⟩
  rw [fixOne, List.find?_range_eq_some]
  exact ⟨hvalid, List.mem_range.2 hp, fun p' hp' => by rw [hmin p' hp']; rfl⟩

theorem fixOne_eq_none_iff {M : Msg} {bits : Nat} :
    fixOne M bits = none ↔ ∀ p < bits, validMsg (flipBit M p) bits = false := by
  simp only [fixOne, List.find?_range_eq_none, Bool.not_eq_true']

theorem fix1Value_found {p : Nat} (hp : p < 256) :
    fix1Value true (BitVec.ofNat 8 p) = BitVec.ofNat 56 (p + 65536) := by
  refine BitVec.eq_of_toNat_eq ?_
  simp only [fix1Value, bit, toNat_append_add, BitVec.ofNat_eq_ofNat, BitVec.toNat_ofBool, BitVec.toNat_ofNat,
    Bool.toNat_true]
  omega

theorem exec_fix1_bad_bits {s : State} (hf : s.fatal = false) {bits : BitVec 8}
    (hb : ¬ (bits.toNat = 56 ∨ bits.toNat = 112)) :
    exec (.fix1 bits) s = .next { s with rsp := errorAnswer .bits } :=
  (whenRunning_running hf _).trans (if_neg (mt bitsOk_iff.1 hb))

section Fix1
variable {s : State} (hf : s.fatal = false) {bits : BitVec 8} (hb : bits.toNat = 56 ∨ bits.toNat = 112)
include hf hb

theorem exec_fix1_of_some {p : Nat} (h : fixOne s.msg bits.toNat = some p) :
    exec (.fix1 bits) s = .next { s with msg := flipBit s.msg p, rsp := okAnswer (p + 65536) } := by
  have hp := (fixOne_some h).1
  rw [exec, execFix1, whenRunning_running hf, if_pos (bitsOk_iff.2 hb), h]
  exact congrArg (respond · _) (fix1Value_found (by omega))

theorem exec_fix1_of_none (h : fixOne s.msg bits.toNat = none) :
    exec (.fix1 bits) s = .next { s with rsp := okAnswer 0 } := by
  rw [exec, execFix1, whenRunning_running hf, if_pos (bitsOk_iff.2 hb), h]
  rfl

end Fix1

/-- Settles O41. -/
theorem fix1TakesTheLowestPosition : Obligations.Fix1TakesTheLowestPosition := by
  intro s bits hf
  refine ⟨fun hb => ⟨fun p hp hvalid hmin => ?_, fun hnone => ?_⟩, fun hb => exec_fix1_bad_bits hf hb,
    commandWord_byteOperand 0x51 bits⟩
  · exact exec_fix1_of_some hf hb (fixOne_eq_some_iff.2 ⟨hp, hvalid, hmin⟩)
  · exact exec_fix1_of_none hf hb (fixOne_eq_none_iff.2 hnone)

/-! ### FIX2 (R188, R189) -/

/-- A search that finds nothing before `p` answers what it finds at `p`. -/
theorem findSome?_range_of_first {β : Type} {f : Nat → Option β} {n p : Nat} {b : β} (hp : p < n) (hb : f p = some b)
    (hfirst : ∀ p' < p, f p' = none) : (List.range n).findSome? f = some b := by
  have hsplit : List.range n = List.range p ++ p :: (List.range (n - (p + 1))).map (p + 1 + ·) := by
    conv_lhs => rw [← Nat.add_sub_cancel' hp, List.range_add, List.range_succ, List.append_assoc]
    rfl
  rw [List.findSome?_eq_some_iff]
  exact ⟨_, p, _, hsplit, hb, fun p' hp' => hfirst p' (List.mem_range.1 hp')⟩

theorem fixTwoInner_eq_none_iff {M : Msg} {bits p : Nat} :
    fixTwoInner M bits p = none ↔ ∀ r, p < r → r < bits → validMsg (flipBit (flipBit M p) r) bits = false := by
  simp only [fixTwoInner, List.find?_range'_eq_none, Bool.not_eq_true']
  exact ⟨fun h r hpr hr => h r hpr (by omega), fun h r hpr hr => h r hpr (by omega)⟩

theorem fixTwoInner_eq_some {M : Msg} {bits p r : Nat} (hpr : p < r) (hr : r < bits)
    (hvalid : validMsg (flipBit (flipBit M p) r) bits = true)
    (hmin : ∀ r', p < r' → r' < r → validMsg (flipBit (flipBit M p) r') bits = false) :
    fixTwoInner M bits p = some r := by
  rw [fixTwoInner, List.find?_range'_eq_some]
  exact ⟨hvalid, List.mem_range'_1.2 ⟨hpr, by omega⟩, fun r' hp' hr' => by rw [hmin r' hp' hr']; rfl⟩

/-- FIXTWO answers the pair that comes before every other valid one. -/
theorem fixTwo_eq_some {M : Msg} {bits p r : Nat} (hpr : p < r) (hr : r < bits)
    (hvalid : validMsg (flipBit (flipBit M p) r) bits = true)
    (hmin : ∀ p' r', p' < r' → r' < bits → (p' < p ∨ (p' = p ∧ r' < r)) →
      validMsg (flipBit (flipBit M p') r') bits = false) :
    fixTwo M bits = some (p, r) := by
  refine findSome?_range_of_first (hpr.trans hr) ?_ fun p' hp' => ?_
  · rw [fixTwoInner_eq_some hpr hr hvalid fun r' hp' hr' => hmin p r' hp' (hr'.trans hr) (.inr ⟨rfl, hr'⟩)]
    rfl
  · rw [fixTwoInner_eq_none_iff.2 fun r' hpr' hr' => hmin p' r' hpr' hr' (.inl hp')]
    rfl

theorem fixTwo_eq_none {M : Msg} {bits : Nat}
    (h : ∀ p r, p < r → r < bits → validMsg (flipBit (flipBit M p) r) bits = false) : fixTwo M bits = none := by
  rw [fixTwo, List.findSome?_eq_none_iff]
  intro p _
  rw [fixTwoInner_eq_none_iff.2 (h p)]
  rfl

theorem fix2Value_found {p r : Nat} (hp : p < 256) (hr : r < 256) :
    fix2Value true (BitVec.ofNat 8 p) (BitVec.ofNat 8 r) = BitVec.ofNat 56 (p + 256 * r + 65536) := by
  refine BitVec.eq_of_toNat_eq ?_
  simp only [fix2Value, bit, toNat_append_add, BitVec.ofNat_eq_ofNat, BitVec.toNat_ofBool, BitVec.toNat_ofNat,
    Bool.toNat_true]
  omega

theorem exec_fix2_bad_bits {s : State} (hf : s.fatal = false) {bits : BitVec 8}
    (hb : ¬ (bits.toNat = 56 ∨ bits.toNat = 112)) :
    exec (.fix2 bits) s = .next { s with rsp := errorAnswer .bits } :=
  (whenRunning_running hf _).trans (if_neg (mt bitsOk_iff.1 hb))

section Fix2
variable {s : State} (hf : s.fatal = false) {bits : BitVec 8} (hb : bits.toNat = 56 ∨ bits.toNat = 112)
include hf hb

theorem exec_fix2_of_some {p r : Nat} (h : fixTwo s.msg bits.toNat = some (p, r)) :
    exec (.fix2 bits) s =
      .next { s with msg := flipBit (flipBit s.msg p) r, rsp := okAnswer (p + 256 * r + 65536) } := by
  obtain ⟨hpr, hr, -⟩ := fixTwo_some h
  rw [exec, execFix2, whenRunning_running hf, if_pos (bitsOk_iff.2 hb), h]
  exact congrArg (respond · _) (fix2Value_found (by omega) (by omega))

theorem exec_fix2_of_none (h : fixTwo s.msg bits.toNat = none) :
    exec (.fix2 bits) s = .next { s with rsp := okAnswer 0 } := by
  rw [exec, execFix2, whenRunning_running hf, if_pos (bitsOk_iff.2 hb), h]
  rfl

end Fix2

/-- Settles O43. -/
theorem fix2TakesTheSmallestPair : Obligations.Fix2TakesTheSmallestPair := by
  intro s bits hf
  refine ⟨fun hb => ⟨fun p r hpr hr hvalid hmin => ?_, fun hnone => ?_⟩, fun hb => exec_fix2_bad_bits hf hb,
    commandWord_byteOperand 0x52 bits⟩
  · exact exec_fix2_of_some hf hb (fixTwo_eq_some hpr hr hvalid hmin)
  · exact exec_fix2_of_none hf hb (fixTwo_eq_none hnone)

/-! ### APCHK (R190, R191, R211) -/

section Lookup
variable {c : Cache} {addr : Word24} {now seen : Ticks}

theorem cacheHas_of_none (h : lookupAt c addr.toNat = none) : cacheHas c addr now = false := by
  simp [cacheHas, h]

theorem cacheAfterLookup_of_none (h : lookupAt c addr.toNat = none) : cacheAfterLookup c addr now = c := by
  simp [cacheAfterLookup, h]

theorem cacheHas_of_some (h : lookupAt c addr.toNat = some seen) :
    cacheHas c addr now = true ↔ now.toNat - seen.toNat ≤ 60000000 := by
  simp [cacheHas_iff, h]

/-- A lookup that finds its address evicts nothing. -/
theorem cacheAfterLookup_of_has (h : cacheHas c addr now = true) : cacheAfterLookup c addr now = c := by
  obtain ⟨seen, hseen, hfresh⟩ := (cacheHas_iff ..).1 h
  rw [cacheAfterLookup, hseen]
  exact if_neg (Nat.not_lt.2 hfresh)

end Lookup

theorem apchkValue_eq (present : Bool) (cand : Word24) :
    apchkValue present cand = BitVec.ofNat 56 (cand.toNat + 2 ^ 24 * present.toNat) := by
  have hcand := cand.isLt
  have hpresent : present.toNat ≤ 1 := Bool.toNat_le present
  refine BitVec.eq_of_toNat_eq ?_
  simp only [apchkValue, bit, toNat_append_add, BitVec.ofNat_eq_ofNat, BitVec.toNat_ofBool, BitVec.toNat_ofNat]
  omega

theorem exec_apchk_bad_bits {s : State} (hf : s.fatal = false) {bits : BitVec 8}
    (hb : ¬ (bits.toNat = 56 ∨ bits.toNat = 112)) :
    exec (.apchk bits) s = .next { s with rsp := errorAnswer .bits } :=
  (whenRunning_running hf _).trans (if_neg (mt bitsOk_iff.1 hb))

/-- The answer of APCHK and the cache it leaves, for the address that the message unmasks to. -/
theorem exec_apchk {s : State} (hf : s.fatal = false) {bits : BitVec 8} (hb : bits.toNat = 56 ∨ bits.toNat = 112)
    {cand : Word24} (hcand : unmaskAddress s.msg bits.toNat = cand) :
    exec (.apchk bits) s = .next { s with
      cache := cacheAfterLookup s.cache cand s.ts
      rsp := okAnswer (cand.toNat + 2 ^ 24 * (cacheHas s.cache cand s.ts).toNat) } := by
  subst hcand
  exact (whenRunning_running hf _).trans ((if_pos (bitsOk_iff.2 hb)).trans (congrArg (respond · _) (apchkValue_eq _ _)))

/-- Settles O45: the three cases of the lookup. -/
theorem apchkLooksUpTheUnmaskedAddress : Obligations.ApchkLooksUpTheUnmaskedAddress := by
  intro s bits hf cand
  refine ⟨fun hb => ⟨fun hnone => ?_, fun seen hseen hfresh => ?_, fun seen hseen hstale => ?_⟩,
    fun hb => exec_apchk_bad_bits hf hb, commandWord_byteOperand 0x53 bits⟩
  · rw [exec_apchk hf hb (cand := cand) rfl, cacheHas_of_none hnone, cacheAfterLookup_of_none hnone]
    rfl
  · have hhas : cacheHas s.cache cand s.ts = true := (cacheHas_of_some hseen).2 hfresh
    rw [exec_apchk hf hb (cand := cand) rfl, cacheAfterLookup_of_has hhas, hhas]
    rfl
  · have hmissing : cacheHas s.cache cand s.ts = false :=
      Bool.eq_false_iff.2 (mt (cacheHas_of_some hseen).1 (Nat.not_le.2 hstale))
    refine ⟨cacheAfterLookup s.cache cand s.ts, ?_, fun a => ?_⟩
    · rw [exec_apchk hf hb (cand := cand) rfl, hmissing]
      rfl
    · rw [lookupAt_cacheAfterLookup, hmissing]
      exact if_congr (and_iff_left rfl) rfl rfl

end Sys2Proof.Machine
end

section
/-! SUPPORT. Why the corrector restores what was flipped (O42, O44). Each bit position has a syndrome, which a flip adds to
the message's (R186 (c)), and the syndromes are the powers of x modulo the generator (R182): each is the next one times x.
Equal syndromes of two pairs of flips therefore stay equal when all positions move up until the last one is 111, whose
syndrome is 1, and such pairs are few enough to enumerate. -/

namespace Sys2Proof.Machine

/-! ### Syndromes (R182, R186 (c)) -/

/-- `E112(k)` (R182): what flipping position `k` of a long message changes, its table entry in the computed checksum or
its own bit in the received one. A short message has the syndromes of the positions from 56 on. -/
def bitSyndrome (k : Nat) : Word24 := crctabEntry k ^^^ (1#24 <<< (111 - k))

theorem flipBit_flipBit (M : Msg) (k : Nat) : flipBit (flipBit M k) k = M := by
  rw [flipBit, flipBit, BitVec.xor_assoc, BitVec.xor_self, BitVec.xor_zero]

theorem flipBit_comm (M : Msg) (k k' : Nat) : flipBit (flipBit M k) k' = flipBit (flipBit M k') k := by
  rw [flipBit, flipBit, flipBit, flipBit, BitVec.xor_assoc, BitVec.xor_assoc, BitVec.xor_comm (1#112 <<< (111 - k))]

/-- The syndrome of a message, which APCHK answers as the address (R190), is 0 exactly for a valid one. -/
theorem validMsg_iff_unmaskAddress {M : Msg} {bits : Nat} : validMsg M bits = true ↔ unmaskAddress M bits = 0#24 :=
  validMsg_iff.trans (eq_comm.trans BitVec.xor_eq_zero_iff.symm)

/-- Flipping a bit of the received checksum flips its place there; a bit above it has no place there. -/
theorem rxCrc_flipBit (M : Msg) {bits k : Nat} (hb : bits = 56 ∨ bits = 112) (hk : k < bits) :
    rxCrc (flipBit M k) bits = rxCrc M bits ^^^ (1#24 <<< (111 - (k + tableOffset bits))) := by
  have hoffset := add_tableOffset hb
  rw [rxCrc_eq_extract _ hb, rxCrc_eq_extract _ hb, flipBit, BitVec.extractLsb'_xor]
  congr 1
  refine BitVec.eq_of_getLsbD_eq fun i hi => ?_
  have hlong : (1#112 <<< (111 - k)).getLsbD (tableOffset bits + i) = _ :=
    BitVec.getLsbD_twoPow (111 - k) (tableOffset bits + i)
  have hshort : (1#24 <<< (111 - (k + tableOffset bits))).getLsbD i = _ :=
    BitVec.getLsbD_twoPow (111 - (k + tableOffset bits)) i
  rw [BitVec.getLsbD_extractLsb', hlong, hshort, Bool.eq_iff_iff]
  simp only [Bool.and_eq_true, decide_eq_true_eq]
  omega

/-- A flip changes the syndrome of the message by that of its position (R186 (c)). -/
theorem unmaskAddress_flipBit (M : Msg) {bits k : Nat} (hb : bits = 56 ∨ bits = 112) (hk : k < bits) :
    unmaskAddress (flipBit M k) bits = unmaskAddress M bits ^^^ bitSyndrome (k + tableOffset bits) := by
  rw [unmaskAddress, unmaskAddress, rxCrc_flipBit M hb hk, checksum_flipBit M hb hk, bitSyndrome]
  ac_rfl

/-! ### Multiplication by x (R182) -/

/-- Multiplication by x modulo the generator polynomial 0x1FFF409. -/
def timesX (t : Word24) : Word24 := (t <<< 1) ^^^ if t.msb then 0xFFF409#24 else 0#24

theorem timesX_xor (a b : Word24) : timesX (a ^^^ b) = timesX a ^^^ timesX b := by
  have hcarry : (if (a ^^^ b).msb then 0xFFF409#24 else 0#24) =
      (if a.msb then 0xFFF409#24 else 0#24) ^^^ if b.msb then 0xFFF409#24 else 0 := by
    rw [BitVec.msb_xor]
    cases a.msb <;> cases b.msb <;> rfl
  rw [timesX, timesX, timesX, hcarry, BitVec.shiftLeft_xor_distrib]
  ac_rfl

/-- The generator is odd, so that the carry shows in bit 0; without a carry nothing is shifted out. -/
theorem eq_zero_of_timesX {t : Word24} (h : timesX t = 0#24) : t = 0#24 := by
  have hbit : ∀ i, (t <<< 1 ^^^ if t.msb then 0xFFF409#24 else 0#24).getLsbD i = false := fun i => by
    rw [← timesX, h]; exact BitVec.getLsbD_zero
  have hmsb : t.msb = false := by
    cases hc : t.msb with
    | false => rfl
    | true => simpa [hc] using hbit 0
  ext i hi
  rcases Nat.lt_or_ge i 23 with hlt | hge
  · simpa [hmsb, show i + 1 < 24 by omega] using hbit (i + 1)
  · obtain rfl : i = 23 := by omega
    simpa [BitVec.msb_eq_getLsbD_last] using hmsb

theorem timesX_injective : Function.Injective timesX := fun a b h => by
  have hzero : timesX (a ^^^ b) = 0#24 := by rw [timesX_xor, h, BitVec.xor_self]
  exact BitVec.xor_eq_zero_iff.1 (eq_zero_of_timesX hzero)

theorem timesX_iterate_xor (n : Nat) (a b : Word24) : timesX^[n] (a ^^^ b) = timesX^[n] a ^^^ timesX^[n] b := by
  induction n generalizing a b with
  | zero => rfl
  | succ n ih => rw [Function.iterate_succ_apply, timesX_xor, ih]; rfl

/-- Each syndrome is the next one times x: R182's generation rule, for the bits of the received checksum too. -/
theorem bitSyndrome_eq_timesX : ∀ k < 111, bitSyndrome k = timesX (bitSyndrome (k + 1)) := by decide +kernel

theorem bitSyndrome_eq_iterate (k : Nat) {n : Nat} (h : k + n ≤ 111) :
    bitSyndrome k = timesX^[n] (bitSyndrome (k + n)) := by
  induction n with
  | zero => rfl
  | succ n ih => rw [ih (by omega), bitSyndrome_eq_timesX (k + n) (by omega), Function.iterate_succ_apply]; rfl

/-! ### One position -/

theorem bitSyndrome_ne_zero : ∀ k < 112, bitSyndrome k ≠ 0#24 := by decide +kernel

theorem bitSyndrome_ne_one : ∀ k < 111, bitSyndrome k ≠ 1#24 := by decide +kernel

/-- R182 (a): moved up so that the second position is 111, the first one's syndrome is not 1. -/
theorem bitSyndrome_ne_of_lt {p r : Nat} (hpr : p < r) (hr : r ≤ 111) : bitSyndrome p ≠ bitSyndrome r := by
  intro h
  have hlast : r + (111 - r) = 111 := by omega
  rw [bitSyndrome_eq_iterate p (n := 111 - r) (by omega), bitSyndrome_eq_iterate r hlast.le, hlast] at h
  exact bitSyndrome_ne_one _ (by omega) (timesX_injective.iterate _ h)

theorem bitSyndrome_injOn {p r : Nat} (hp : p ≤ 111) (hr : r ≤ 111) (h : bitSyndrome p = bitSyndrome r) : p = r := by
  rcases Nat.lt_trichotomy p r with hlt | heq | hlt
  · exact absurd h (bitSyndrome_ne_of_lt hlt hr)
  · exact heq
  · exact absurd h.symm (bitSyndrome_ne_of_lt hlt hp)

/-! ### Two positions -/

/-- The naturals of a list as the bits of one number, in which the kernel looks one up at once. -/
def marks (l : List Nat) : Nat := l.foldr (fun x m => m ||| 1 <<< x) 0

theorem testBit_marks {l : List Nat} {x : Nat} (h : x ∈ l) : (marks l).testBit x = true := by
  induction l with
  | nil => cases h
  | cons y l ih =>
    rw [marks, List.foldr_cons, Nat.testBit_or, Nat.one_shiftLeft, Bool.or_eq_true]
    rcases List.mem_cons.1 h with rfl | h
    · exact .inr Nat.testBit_two_pow_self
    · exact .inl (ih h)

/-- The 18 low bits of a syndrome, which are enough to tell apart what has to be. -/
def lowPart (t : Word24) : Nat := t.toNat % 2 ^ 18

/-- The low parts of the syndromes of the positions below 111. -/
def lowParts : List Nat := (List.range 111).map fun k => lowPart (bitSyndrome k)

/-- The enumeration of R182 (b), cut down to pairs against one pair that ends at 111: no two syndromes of positions below
111 and that of 111, which is 1, add up to a third. -/
theorem lowPart_not_marked : ∀ r < 111, ∀ p < r,
    (marks lowParts).testBit (lowPart (bitSyndrome p ^^^ bitSyndrome r ^^^ 1#24)) = false := by decide +kernel

theorem bitSyndrome_xor_ne {p r q : Nat} (hpr : p < r) (hr : r < 111) (hq : q < 111) :
    bitSyndrome p ^^^ bitSyndrome r ≠ bitSyndrome q ^^^ bitSyndrome 111 := by
  intro h
  have hthird : bitSyndrome p ^^^ bitSyndrome r ^^^ 1#24 = bitSyndrome q := by
    rw [h, BitVec.xor_assoc]
    exact (congrArg _ (BitVec.xor_self (x := 1#24))).trans BitVec.xor_zero
  have hmarked := testBit_marks (List.mem_map_of_mem (f := fun k => lowPart (bitSyndrome k)) (List.mem_range.2 hq))
  rw [← hthird] at hmarked
  exact Bool.false_ne_true ((lowPart_not_marked r hr p hpr).symm.trans hmarked)

/-- Two pairs that end at different positions: moved up so that the later end is 111, they are in the enumeration. -/
theorem bitSyndrome_xor_ne_of_lt {p r p' r' : Nat} (hpr : p < r) (hrr' : r < r') (hpr' : p' < r') (hr' : r' ≤ 111) :
    bitSyndrome p ^^^ bitSyndrome r ≠ bitSyndrome p' ^^^ bitSyndrome r' := by
  intro h
  have hlast : r' + (111 - r') = 111 := by omega
  rw [bitSyndrome_eq_iterate p (n := 111 - r') (by omega), bitSyndrome_eq_iterate r (n := 111 - r') (by omega),
    bitSyndrome_eq_iterate p' (n := 111 - r') (by omega), bitSyndrome_eq_iterate r' hlast.le, hlast,
    ← timesX_iterate_xor, ← timesX_iterate_xor] at h
  exact bitSyndrome_xor_ne (by omega) (by omega) (by omega) (timesX_injective.iterate _ h)

/-- R182 (b): a pair of positions is determined by its syndrome. -/
theorem pair_eq_of_bitSyndrome_xor {p r p' r' : Nat} (hpr : p < r) (hr : r ≤ 111) (hpr' : p' < r') (hr' : r' ≤ 111)
    (h : bitSyndrome p ^^^ bitSyndrome r = bitSyndrome p' ^^^ bitSyndrome r') : p = p' ∧ r = r' := by
  rcases Nat.lt_trichotomy r r' with hlt | rfl | hlt
  · exact absurd h (bitSyndrome_xor_ne_of_lt hpr hlt hpr' hr')
  · exact ⟨bitSyndrome_injOn (by omega) (by omega) ((BitVec.xor_left_inj _).1 h), rfl⟩
  · exact absurd h.symm (bitSyndrome_xor_ne_of_lt hpr' hlt hpr hr)

/-! ### Flips of a valid message (R187, R188) -/

section ValidMessage
variable {M : Msg} {bits : Nat} (hb : bits = 56 ∨ bits = 112) (hM : validMsg M bits = true)
include hb hM

/-- R182 (a), (c): one flip makes a valid message invalid. -/
theorem validMsg_flipBit {p : Nat} (hp : p < bits) : validMsg (flipBit M p) bits = false := by
  have hoffset := add_tableOffset hb
  rw [Bool.eq_false_iff]
  intro h
  rw [validMsg_iff_unmaskAddress, unmaskAddress_flipBit M hb hp, validMsg_iff_unmaskAddress.1 hM, BitVec.zero_xor] at h
  exact bitSyndrome_ne_zero _ (by omega) h

/-- R182 (a), (c): a flip of a valid message is undone by that flip only. -/
theorem eq_of_validMsg_flipBit {p p' : Nat} (hp : p < bits) (hp' : p' < bits)
    (h : validMsg (flipBit (flipBit M p) p') bits = true) : p' = p := by
  have hoffset := add_tableOffset hb
  rw [validMsg_iff_unmaskAddress, unmaskAddress_flipBit _ hb hp', unmaskAddress_flipBit M hb hp,
    validMsg_iff_unmaskAddress.1 hM, BitVec.zero_xor, BitVec.xor_eq_zero_iff] at h
  have hplaces := bitSyndrome_injOn (by omega) (by omega) h
  omega

/-- R182 (b), (c): two flips of a valid message are undone by that pair only. -/
theorem pair_eq_of_validMsg_flipBit {p r p' r' : Nat} (hpr : p < r) (hr : r < bits) (hpr' : p' < r') (hr' : r' < bits)
    (h : validMsg (flipBit (flipBit (flipBit (flipBit M p) r) p') r') bits = true) : p' = p ∧ r' = r := by
  have hoffset := add_tableOffset hb
  rw [validMsg_iff_unmaskAddress, unmaskAddress_flipBit _ hb hr', unmaskAddress_flipBit _ hb (hpr'.trans hr'),
    unmaskAddress_flipBit _ hb hr, unmaskAddress_flipBit M hb (hpr.trans hr), validMsg_iff_unmaskAddress.1 hM,
    BitVec.zero_xor, BitVec.xor_assoc, BitVec.xor_eq_zero_iff] at h
  have hpairs := pair_eq_of_bitSyndrome_xor (by omega) (by omega) (by omega) (by omega) h
  omega

end ValidMessage

/-- Settles O42. -/
theorem fix1RestoresEverySingleFlip : Obligations.Fix1RestoresEverySingleFlip := by
  intro s M bits p hf hb hM hp
  have hfound : fixOne (flipBit M p) bits.toNat = some p := by
    refine fixOne_eq_some_iff.2 ⟨hp, by rwa [flipBit_flipBit], fun p' hp' => Bool.eq_false_iff.2 fun h => ?_⟩
    exact hp'.ne (eq_of_validMsg_flipBit hb hM hp (hp'.trans hp) h)
  have hnone : fixOne M bits.toNat = none := fixOne_eq_none_iff.2 fun p' hp' => validMsg_flipBit hb hM hp'
  refine ⟨?_, exec_fix1_of_none (s := { s with msg := M }) hf hb hnone⟩
  rw [exec_fix1_of_some (s := { s with msg := flipBit M p }) hf hb hfound, flipBit_flipBit]

/-- Settles O44. -/
theorem fix2RestoresEveryDoubleFlip : Obligations.Fix2RestoresEveryDoubleFlip := by
  intro s M bits p r hf hb hM hpr hr
  have hundone : flipBit (flipBit (flipBit (flipBit M p) r) p) r = M := by
    rw [flipBit_comm (flipBit M p) r p, flipBit_flipBit, flipBit_flipBit]
  have hfound : fixTwo (flipBit (flipBit M p) r) bits.toNat = some (p, r) := by
    refine fixTwo_eq_some hpr hr (by rwa [hundone]) fun p' r' hpr' hr' hbefore => Bool.eq_false_iff.2 fun h => ?_
    obtain ⟨rfl, rfl⟩ := pair_eq_of_validMsg_flipBit hb hM hpr hr hpr' hr' h
    omega
  rw [exec_fix2_of_some (s := { s with msg := flipBit (flipBit M p) r }) hf hb hfound, hundone]

end Sys2Proof.Machine
end

section
/-! SUPPORT. The validation flow (O46, R193, R194): what `validateMsg` leaves and answers on each path of R193, one lemma per
path, and the insertion at its end. -/

namespace Sys2Proof.Machine

/-! ### Format classes (R192) -/

theorem isFixFormat_iff {df : BitVec 5} : isFixFormat df = true ↔ df.toNat = 11 ∨ df.toNat = 17 := by
  have hmem : isFixFormat df = true ↔ df.toNat ∈ [11, 17] := by
    rw [isFixFormat, List.contains_iff_mem]
    exact (List.mem_map_of_injective BitVec.toNat_injective (l := Config.fixDfSet)).symm
  simpa using hmem

theorem isApFormat_iff {df : BitVec 5} : isApFormat df = true ↔ df.toNat ∈ [0, 4, 5, 16, 20, 21, 24] := by
  rw [isApFormat, List.contains_iff_mem]
  exact (List.mem_map_of_injective BitVec.toNat_injective (l := Config.apDfSet)).symm

/-- The two classes are disjoint. -/
theorem isApFormat_of_isFixFormat {df : BitVec 5} (h : isFixFormat df = true) : isApFormat df = false := by
  rw [Bool.eq_false_iff, Ne, isApFormat_iff]
  rcases isFixFormat_iff.1 h with h | h <;> rw [h] <;> decide

theorem literalAddress_toNat (M : Msg) :
    (literalAddress M).toNat = (msgByte M 1).toNat * 65536 + (msgByte M 2).toNat * 256 + (msgByte M 3).toNat :=
  bytes24_toNat M 1

/-! ### The first part of the flow (R193) -/

section Correction
variable {M : Msg} {df : BitVec 5} {bits : Nat}

theorem correctMessage_of_valid (h : validMsg M bits = true) :
    correctMessage M df bits = (M, { valid := true, path := 1 }) := if_pos h

theorem correctMessage_of_other (h : validMsg M bits = false) (hdf : isFixFormat df = false) :
    correctMessage M df bits = (M, { valid := false, path := 0 }) := by
  simp [correctMessage, h, hdf]

theorem correctMessage_of_fixOne {p : Nat} (h : validMsg M bits = false) (hdf : isFixFormat df = true)
    (h1 : fixOne M bits = some p) : correctMessage M df bits = (flipBit M p, { valid := true, path := 2 }) := by
  simp [correctMessage, h, hdf, h1]

theorem correctMessage_of_fixTwo {p r : Nat} (h : validMsg M bits = false) (hdf : isFixFormat df = true)
    (h1 : fixOne M bits = none) (h2 : fixTwo M bits = some (p, r)) :
    correctMessage M df bits = (flipBit (flipBit M p) r, { valid := true, path := 3 }) := by
  simp [correctMessage, h, hdf, h1, h2]

theorem correctMessage_of_none (h : validMsg M bits = false) (hdf : isFixFormat df = true)
    (h1 : fixOne M bits = none) (h2 : fixTwo M bits = none) :
    correctMessage M df bits = (M, { valid := false, path := 0 }) := by
  simp [correctMessage, h, hdf, h1, h2]

end Correction

/-! ### The whole flow (R193) -/

section Flow
variable {now : Ticks} {s : State} {bits : Nat} (hbits : s.msgBits.toNat = bits)
include hbits

/-- A message that the first part leaves valid is not unmasked. -/
theorem validateMsg_of_correct {M : Msg} {path : BitVec 3}
    (h : correctMessage s.msg s.df0 bits = (M, { valid := true, path := path })) :
    validateMsg now s = ({ s with
      msg := M
      cache := if isFixFormat s.df0 then cacheInsert s.cache (literalAddress M) now else s.cache },
      { valid := true, path := path }) := by
  subst hbits
  simp [validateMsg, h, unmaskVerdict, insertVerdict]

/-- Without correction and unmasking an invalid message stays so, and nothing is written. -/
theorem validateMsg_of_uncorrected (h : correctMessage s.msg s.df0 bits = (s.msg, { valid := false, path := 0 }))
    (hap : isApFormat s.df0 = false) : validateMsg now s = (s, { valid := false, path := 0 }) := by
  subst hbits
  simp [validateMsg, h, unmaskVerdict, insertVerdict, hap]

/-- An invalid message of an AP format is valid if the address that it unmasks to is present. -/
theorem validateMsg_of_unmask (h : validMsg s.msg bits = false) (hap : isApFormat s.df0 = true) :
    validateMsg now s = ({ s with cache := cacheAfterLookup s.cache (unmaskAddress s.msg bits) now },
      if cacheHas s.cache (unmaskAddress s.msg bits) now then { valid := true, path := 4 }
      else { valid := false, path := 0 }) := by
  subst hbits
  have hfix : isFixFormat s.df0 = false :=
    Bool.eq_false_iff.2 fun hfix => Bool.false_ne_true ((isApFormat_of_isFixFormat hfix).symm.trans hap)
  simp [validateMsg, correctMessage_of_other h hfix, unmaskVerdict, insertVerdict, hap, hfix]

end Flow

/-- The address of a valid DF 11 or 17 message is inserted, as it stands after correction. -/
theorem validateMsg_inserts {now : Ticks} {s : State} (hfix : isFixFormat s.df0 = true)
    (hvalid : (validateMsg now s).2.valid = true) :
    (validateMsg now s).1.cache = cacheInsert s.cache (literalAddress (validateMsg now s).1.msg) now := by
  have hap := isApFormat_of_isFixFormat hfix
  simp only [validateMsg, unmaskVerdict, hap, Bool.and_false, Bool.false_eq_true, if_false] at hvalid ⊢
  simp [insertVerdict, hvalid, hfix]

/-! ### VALIDATE (R194) -/

theorem validateValue_eq (long : Bool) (df : BitVec 5) (path : BitVec 3) (valid : Bool) :
    validateValue long df path valid =
      BitVec.ofNat 56 (valid.toNat + 2 * path.toNat + 16 * df.toNat + 512 * long.toNat) := by
  have hdf := df.isLt
  have hpath := path.isLt
  have hlong : long.toNat ≤ 1 := Bool.toNat_le long
  have hvalid : valid.toNat ≤ 1 := Bool.toNat_le valid
  refine BitVec.eq_of_toNat_eq ?_
  simp only [validateValue, bit, toNat_append_add, BitVec.ofNat_eq_ofNat, BitVec.toNat_ofBool, BitVec.toNat_ofNat]
  omega

theorem exec_validate {s : State} (hf : s.fatal = false) {d n : Nat} (hd : (latchLength s).df0.toNat = d)
    (hn : (latchLength s).msgBits.toNat = n) :
    let r := validateMsg s.ts (latchLength s)
    exec .validate s = .next { s with
      df0 := BitVec.ofNat 5 d, msgBits := BitVec.ofNat 7 n, msg := r.1.msg, cache := r.1.cache
      rsp := okAnswer (r.2.valid.toNat + 2 * r.2.path.toNat + 16 * d + (if n = 112 then 512 else 0)) } := by
  subst hd hn
  have hlong : 512 * (isLong (latchLength s)).toNat = if (latchLength s).msgBits.toNat = 112 then 512 else 0 := by
    cases h : isLong (latchLength s) with
    | true => exact (if_pos (beq_iff_eq.1 h)).symm
    | false => exact (if_neg (beq_eq_false_iff_ne.1 h)).symm
  rw [BitVec.ofNat_toNat, BitVec.ofNat_toNat, BitVec.setWidth_eq, BitVec.setWidth_eq, ← hlong]
  exact (whenRunning_running hf _).trans (congrArg (respond · _) (validateValue_eq _ _ _ _))

/-- Settles O46: each clause is one path of the flow. -/
theorem validateFollowsTheFlow : Obligations.ValidateFollowsTheFlow := by
  refine ⟨rfl, fun s hf => ?_⟩
  intro d n addr cand
  have hd : (latchLength s).df0.toNat = d := formatField_toNat s.msg
  have hn : (latchLength s).msgBits.toNat = n :=
    (ofNat_lengthOf_toNat _).trans ((lengthOf_eq _).trans (by rw [formatField_toNat]))
  have hfix : isFixFormat (latchLength s).df0 = true ↔ d = 11 ∨ d = 17 := hd ▸ isFixFormat_iff
  have hap : isApFormat (latchLength s).df0 = true ↔ d ∈ [0, 4, 5, 16, 20, 21, 24] := hd ▸ isApFormat_iff
  refine ⟨_, _, _, _, exec_validate hf hd hn, fun hvalid => ?_, fun hinvalid hdf => ⟨fun p h1 => ?_, fun p r h1 h2 => ?_,
    fun h1 h2 => ?_⟩, fun hinvalid hdf => ?_, fun hinvalid hdf => ?_, fun hvalid hdf a => ?_, fun hdf h => ?_⟩
  · rw [validateMsg_of_correct hn (correctMessage_of_valid hvalid)]
    exact ⟨rfl, rfl, rfl⟩
  · rw [validateMsg_of_correct hn (correctMessage_of_fixOne hinvalid (hfix.2 hdf) h1)]
    exact ⟨rfl, rfl, rfl⟩
  · rw [validateMsg_of_correct hn (correctMessage_of_fixTwo hinvalid (hfix.2 hdf) h1 h2)]
    exact ⟨rfl, rfl, rfl⟩
  · rw [validateMsg_of_uncorrected hn (correctMessage_of_none hinvalid (hfix.2 hdf) h1 h2)
      (isApFormat_of_isFixFormat (hfix.2 hdf))]
    exact ⟨rfl, rfl, rfl, rfl⟩
  · rw [validateMsg_of_unmask hn hinvalid (hap.2 hdf)]
    have hverdict : ∀ present : Bool,
        let v : Verdict := if present then { valid := true, path := 4 } else { valid := false, path := 0 }
        v.valid = present ∧ v.path.toNat = if v.valid then 4 else 0 := by decide
    exact ⟨rfl, (hverdict _).1, (hverdict _).2, rfl⟩
  · have hnofix : ¬ (d = 11 ∨ d = 17) := fun h => hdf (by rcases h with h | h <;> rw [h] <;> decide)
    have hnoap : ¬ d ∈ [0, 4, 5, 16, 20, 21, 24] := fun h =>
      hdf ((by decide : [0, 4, 5, 16, 20, 21, 24] ⊆ [0, 4, 5, 11, 16, 17, 20, 21, 24]) h)
    rw [validateMsg_of_uncorrected hn (correctMessage_of_other hinvalid (Bool.eq_false_iff.2 (mt hfix.1 hnofix)))
      (Bool.eq_false_iff.2 (mt hap.1 hnoap))]
    exact ⟨rfl, rfl, rfl⟩
  · rw [validateMsg_inserts (hfix.2 hdf) hvalid, lookupAt_cacheInsert, literalAddress_toNat]
    rfl
  · have hnofix : isFixFormat (latchLength s).df0 = false := Bool.eq_false_iff.2 (mt hfix.1 hdf)
    cases hvalid : validMsg s.msg n with
    | true =>
      rw [validateMsg_of_correct hn (correctMessage_of_valid hvalid), hnofix]
      rfl
    | false =>
      have hnoap : ¬ d ∈ [0, 4, 5, 16, 20, 21, 24] := h.resolve_left (Bool.eq_false_iff.1 hvalid)
      rw [validateMsg_of_uncorrected hn (correctMessage_of_other hvalid hnofix)
        (Bool.eq_false_iff.2 (mt hap.1 hnoap))]
      rfl

end Sys2Proof.Machine
end

section
/-! SUPPORT. The cache commands (O47 to O49, R211 to R216): what an insertion and an eviction do to the number of entries,
and what CCONT and CINS answer and leave. -/

namespace Sys2Proof.Machine

/-! ### The number of entries (R38) -/

section Count
variable {α : Type} {m : List (Nat × α)} {a : Nat} {v : α}

theorem length_insertAt_of_none (h : lookupAt m a = none) : (insertAt m a v).length = m.length + 1 := by
  induction m with
  | nil => rfl
  | cons e rest ih =>
    obtain ⟨k, w⟩ := e
    have hne : k ≠ a := fun heq => by simp [lookupAt, heq] at h
    have hrest : lookupAt rest a = none := by simpa [lookupAt, hne] using h
    by_cases hlt : a < k
    · simp [insertAt, hlt]
    · simp [insertAt, hlt, hne.symm, ih hrest]

/-- Over a canonical list it makes no difference whether the old value is erased before the new one is listed. -/
theorem insertAt_eraseAt (h : rising m) : insertAt (eraseAt m a) a v = insertAt m a v := by
  refine rising_ext (rising_insertAt (rising_eraseAt h a) a v) (rising_insertAt h a v) fun b => ?_
  rw [lookupAt_insertAt, lookupAt_insertAt, lookupAt_eraseAt]
  split <;> rfl

theorem insertAt_of_some (h : rising m) (hv : lookupAt m a = some v) : insertAt m a v = m := by
  refine rising_ext (rising_insertAt h a v) h fun b => ?_
  rw [lookupAt_insertAt]
  by_cases hb : b = a
  · rw [if_pos hb, hb, hv]
  · rw [if_neg hb]

theorem lookupAt_eraseAt_self : lookupAt (eraseAt m a) a = none := (lookupAt_eraseAt a a).trans (if_pos rfl)

/-- Erasing a listed value leaves one pair less: listing it again restores the list. -/
theorem length_eraseAt_of_some (h : rising m) (hv : lookupAt m a = some v) : (eraseAt m a).length + 1 = m.length := by
  rw [← length_insertAt_of_none (v := v) lookupAt_eraseAt_self, insertAt_eraseAt h, insertAt_of_some h hv]

theorem length_insertAt_of_some {w : α} (h : rising m) (hw : lookupAt m a = some w) :
    (insertAt m a v).length = m.length := by
  rw [← insertAt_eraseAt h, length_insertAt_of_none lookupAt_eraseAt_self, length_eraseAt_of_some h hw]

end Count

/-! ### A lookup that does not find its address (R211) -/

section Missing
variable {c : Cache} {addr : Word24} {now seen : Ticks}

theorem cacheHas_of_stale (hseen : lookupAt c addr.toNat = some seen) (hstale : 60000000 < now.toNat - seen.toNat) :
    cacheHas c addr now = false :=
  Bool.eq_false_iff.2 (mt (cacheHas_of_some hseen).1 (Nat.not_le.2 hstale))

theorem cacheAfterLookup_of_stale (hseen : lookupAt c addr.toNat = some seen)
    (hstale : 60000000 < now.toNat - seen.toNat) : cacheAfterLookup c addr now = eraseAt c addr.toNat := by
  rw [cacheAfterLookup, hseen]
  exact if_pos hstale

end Missing

/-! ### CCONT (R214) -/

section Ccont
variable {s : State} (hf : s.fatal = false) {addr : BitVec 24}
include hf

theorem exec_ccont :
    exec (.ccont addr) s = .next { s with
      cache := cacheAfterLookup s.cache addr s.ts
      rsp := okAnswer (cacheHas s.cache addr s.ts).toNat } := by
  have hvalue : ∀ present : Bool, (BitVec.ofBool present).setWidth 56 = BitVec.ofNat 56 present.toNat := by decide
  exact (whenRunning_running hf _).trans (congrArg (respond · _) (hvalue _))

theorem exec_ccont_of_none (h : lookupAt s.cache addr.toNat = none) :
    exec (.ccont addr) s = .next { s with rsp := okAnswer 0 } := by
  rw [exec_ccont hf, cacheHas_of_none h, cacheAfterLookup_of_none h]
  rfl

theorem exec_ccont_of_fresh {seen : Ticks} (hseen : lookupAt s.cache addr.toNat = some seen)
    (hfresh : s.ts.toNat - seen.toNat ≤ 60000000) : exec (.ccont addr) s = .next { s with rsp := okAnswer 1 } := by
  have hhas : cacheHas s.cache addr s.ts = true := (cacheHas_of_some hseen).2 hfresh
  rw [exec_ccont hf, cacheAfterLookup_of_has hhas, hhas]
  rfl

theorem exec_ccont_of_stale {seen : Ticks} (hseen : lookupAt s.cache addr.toNat = some seen)
    (hstale : 60000000 < s.ts.toNat - seen.toNat) :
    exec (.ccont addr) s = .next { s with cache := eraseAt s.cache addr.toNat, rsp := okAnswer 0 } := by
  rw [exec_ccont hf, cacheHas_of_stale hseen hstale, cacheAfterLookup_of_stale hseen hstale]
  rfl

end Ccont

/-- Settles O47: the three cases of the lookup. -/
theorem ccontLooksUpAndEvicts : Obligations.CcontLooksUpAndEvicts := by
  intro s addr hf hrising
  refine ⟨fun hnone => exec_ccont_of_none hf hnone, fun seen hseen hfresh => exec_ccont_of_fresh hf hseen hfresh,
    fun seen hseen hstale => ?_, commandWord_addrOperand 0x60 addr⟩
  exact ⟨eraseAt s.cache addr.toNat, exec_ccont_of_stale hf hseen hstale, length_eraseAt_of_some hrising hseen,
    lookupAt_eraseAt addr.toNat⟩

/-! ### CINS (R215) -/

theorem exec_cins {s : State} (hf : s.fatal = false) (addr : BitVec 24) :
    exec (.cins addr) s = .next { s with cache := cacheInsert s.cache addr s.ts, rsp := okAnswer 0 } :=
  whenRunning_running hf _

theorem exec_cins_lists {s : State} (hf : s.fatal = false) (addr : BitVec 24) :
    ∃ s1, exec (.cins addr) s = .next s1 ∧ s1.fatal = false ∧ lookupAt s1.cache addr.toNat = some s.ts :=
  ⟨_, exec_cins hf addr, hf, (lookupAt_cacheInsert ..).trans (if_pos rfl)⟩

/-- Settles O48. -/
theorem cinsSetsTheTimestamp : Obligations.CinsSetsTheTimestamp := by
  intro s addr hf hrising
  refine ⟨cacheInsert s.cache addr s.ts, exec_cins hf addr, lookupAt_cacheInsert s.cache addr s.ts,
    fun hnone => length_insertAt_of_none hnone, fun hsome => ?_, commandWord_addrOperand 0x61 addr⟩
  obtain ⟨seen, hseen⟩ := Option.ne_none_iff_exists'.1 hsome
  exact length_insertAt_of_some hrising hseen

/-- R216 (c): an address that a lookup evicts stays absent, whatever the time. -/
theorem exec_ccont_again_of_stale {s : State} (hf : s.fatal = false) {addr : BitVec 24} {seen : Ticks}
    (hseen : lookupAt s.cache addr.toNat = some seen) (hstale : 60000000 < s.ts.toNat - seen.toNat) (later : Ticks) :
    ∃ s2, exec (.ccont addr) s = .next s2 ∧ s2.rsp = okAnswer 0 ∧
      exec (.ccont addr) { s2 with ts := later } = .next { s2 with ts := later, rsp := okAnswer 0 } := by
  refine ⟨_, exec_ccont_of_stale hf hseen hstale, rfl, ?_⟩
  exact exec_ccont_of_none (s := { s with cache := eraseAt s.cache addr.toNat, ts := later, rsp := okAnswer 0 }) hf
    lookupAt_eraseAt_self

/-- Settles O49: the entry that CCONT looks up is the one that CINS listed. The premise on `now` is not used: the age of
an entry listed later is 0. -/
theorem cacheSixtySecondBoundary : Obligations.CacheSixtySecondBoundary := by
  intro s addr now later hf _
  obtain ⟨s1, hcins, hf1, hseen⟩ := exec_cins_lists hf addr
  refine ⟨s1, hcins, fun hfresh => ?_, fun hstale => ?_⟩
  · exact exec_ccont_of_fresh (s := { s1 with ts := now }) hf1 hseen (Nat.sub_le_iff_le_add'.2 hfresh)
  · exact exec_ccont_again_of_stale (s := { s1 with ts := now }) hf1 hseen (Nat.lt_sub_iff_add_lt'.2 hstale) later

end Sys2Proof.Machine
end

section
/-! SUPPORT. The transition of J and MODE, and how a candidate ends (O50, O51, O52): a candidate that is not dropped by the
preamble test is a slice that is judged, in both modes; so how a judgement ends is said once, as `Judged`. -/

namespace Sys2Proof.Machine

/-! ### The transition (R233) -/

/-- J after a candidate, as long as it fits 24 bits: it does not wrap (R31). -/
theorem applyTransition_j_toNat {o : CandidateOutcome} {s : State} {x : Nat}
    (hx : nextJ s.mode o s.j.toNat s.msgBits.toNat = x) (hfits : x < 2 ^ 24) : (applyTransition o s).j.toNat = x := by
  rw [applyTransition_j, hx, BitVec.toNat_ofNat, Nat.mod_eq_of_lt hfits]

/-- Settles O50: each row is read off `nextJ` and `nextMode`, and inside the vector no row's J wraps. -/
theorem transitionsOfJAndMode : Obligations.TransitionsOfJAndMode := by
  intro s hlt after past
  have hlen : s.magLen.toNat < 2 ^ 24 := s.magLen.isLt
  have hrow : ∀ o x, nextJ s.mode o s.j.toNat s.msgBits.toNat = x → x < 2 ^ 24 → after o = (x, nextMode s.mode o) :=
    fun o x hx hfits => Prod.ext (applyTransition_j_toNat hx hfits) rfl
  have hpast : s.msgBits = 56 ∨ s.msgBits = 112 → past < 2 ^ 24 := by
    rintro (h | h)
    · have hvalue : past = s.j.toNat + 129 := by simp [past, h]
      omega
    · have hvalue : past = s.j.toNat + 241 := by simp [past, h]
      omega
  constructor
  · intro hmode
    rw [hmode] at hrow
    exact ⟨hrow .noPreamble _ rfl (by omega), hrow .weak _ rfl (by omega), hrow .failed _ rfl (by omega),
      fun hbits => hrow .accepted _ rfl (hpast hbits)⟩
  · intro hmode
    rw [hmode] at hrow
    exact ⟨hrow .weak _ rfl (by omega), hrow .failed _ rfl (by omega),
      fun hbits => hrow .accepted _ rfl (hpast hbits)⟩

/-! ### The judgement of a slice (R230, R231, R232) -/

/-- The record that is pushed describes the state it is pushed in. -/
theorem recordOf_describes (s : State) : (recordOf s).Describes (pushRecord s) where
  bytes := fun n hn => by
    rw [recordOf, msgByte_msgOfBytes _ (by simp) n hn]
    change _ = if n < s.msgBits.toNat / 8 then msgByte s.msg n else 0
    simp [List.getD_eq_getElem?_getD, hn]
  long := by
    rw [recordOf, isLong_eq, decide_eq_true_iff]
    rfl
  df := formatField_toNat s.msg
  av := by
    rw [recordOf, isFixFormat_iff, ← BitVec.toNat_inj, ← BitVec.toNat_inj]
    rfl
  addr := by
    change (if isFixFormat s.df0 then literalAddress s.msg else 0).toNat = if isFixFormat s.df0 then _ else 0
    rw [apply_ite BitVec.toNat]
    exact ite_congr rfl (fun _ => literalAddress_toNat s.msg) fun _ => rfl
  ts := rfl

section Judgement
variable {s : State} {strong : Prop}

theorem Judged.of_weak (hweak : ¬ strong) : Judged s strong .weak s where
  weak_iff := iff_of_true rfl hweak
  failed_iff := iff_of_false (nomatch ·) fun h => hweak h.1
  accepted_iff := iff_of_false (nomatch ·) fun h => hweak h.1
  not_validated := fun _ => rfl
  failed := (nomatch ·)
  accepted := (nomatch ·)

theorem Judged.of_errors (hstrong : strong) (he : s.errors ≠ 0) : Judged s strong .failed s where
  weak_iff := iff_of_false (nomatch ·) (not_not.2 hstrong)
  failed_iff := iff_of_true rfl ⟨hstrong, fun h => he h.1⟩
  accepted_iff := iff_of_false (nomatch ·) fun h => he h.2.1
  not_validated := fun _ => rfl
  failed := fun _ h => absurd h he
  accepted := (nomatch ·)

theorem Judged.of_invalid (hstrong : strong) (he : s.errors = 0) (hv : (validateMsg s.ts s).2.valid ≠ true) :
    Judged s strong .failed (validateMsg s.ts s).1 where
  weak_iff := iff_of_false (nomatch ·) (not_not.2 hstrong)
  failed_iff := iff_of_true rfl ⟨hstrong, fun h => hv h.2⟩
  accepted_iff := iff_of_false (nomatch ·) fun h => hv h.2.2
  not_validated := fun h => absurd ⟨hstrong, he⟩ h
  failed := fun _ _ => validateMsg_writes s.ts s
  accepted := (nomatch ·)

theorem Judged.of_valid (hstrong : strong) (he : s.errors = 0) (hv : (validateMsg s.ts s).2.valid = true) :
    Judged s strong .accepted (pushRecord (validateMsg s.ts s).1) where
  weak_iff := iff_of_false (nomatch ·) (not_not.2 hstrong)
  failed_iff := iff_of_false (nomatch ·) fun h => h.2 ⟨he, hv⟩
  accepted_iff := iff_of_true rfl ⟨hstrong, he, hv⟩
  not_validated := fun h => absurd ⟨hstrong, he⟩ h
  failed := (nomatch ·)
  accepted := fun _ => ⟨_, recordOf_describes _, rfl⟩

/-- The three cases of a judgement leave no other outcome. -/
theorem Judged.ne_noPreamble {t : State} {o : CandidateOutcome} (h : Judged s strong o t) : o ≠ .noPreamble := by
  rintro rfl
  have hstrong : strong := not_not.1 (mt h.weak_iff.2 (nomatch ·))
  have hvalid := not_not.1 fun hn => mt h.failed_iff.2 (nomatch ·) ⟨hstrong, hn⟩
  exact mt h.accepted_iff.2 (nomatch ·) ⟨hstrong, hvalid⟩

theorem judgeMessage_judged (hstrong : strong) : Judged s strong (judgeMessage s).2 (judgeMessage s).1 := by
  by_cases he : s.errors = 0
  · by_cases hv : (validateMsg s.ts s).2.valid = true
    · have hend : judgeMessage s = (pushRecord (validateMsg s.ts s).1, .accepted) := by simp [judgeMessage, he, hv]
      exact hend ▸ .of_valid hstrong he hv
    · have hend : judgeMessage s = ((validateMsg s.ts s).1, .failed) := by simp [judgeMessage, he, hv]
      exact hend ▸ .of_invalid hstrong he hv
  · have hend : judgeMessage s = (s, .failed) := if_pos he
    exact hend ▸ .of_errors hstrong he

/-- How a slice ends whose length is still to be latched; the gate measures the samples of MAG as they stand. -/
theorem judgeSlice_judged (j : Nat) (s : State) :
    Judged (latchLength s) (2550 ≤ quality s.mag j (latchLength s).msgBits.toNat) (judgeSlice j s).2
      (judgeSlice j s).1 := by
  by_cases hq : 2550 ≤ quality s.mag j (latchLength s).msgBits.toNat
  · have hend : judgeSlice j s = judgeMessage (latchLength s) := if_pos (qualityPasses_iff.2 hq)
    exact hend ▸ judgeMessage_judged hq
  · have hend : judgeSlice j s = (latchLength s, .weak) := if_neg (mt qualityPasses_iff.1 hq)
    exact hend ▸ .of_weak hq

end Judgement

/-! ### The normal mode (R228) -/

/-- The state in which a normal candidate's preamble test leaves the block: HIGH alone may be written (R30). -/
theorem latchHigh_eq (v : PreambleVerdict) (s : State) :
    latchHigh v s = { s with high := if v.shape then v.high else s.high } := by
  unfold latchHigh
  split <;> rfl

section Normal
variable {s : State} (hm : s.mode = .scanningNormal)
include hm

theorem candidate_of_not_pass (h : (preamble s.mag s.j.toNat).pass = false) :
    candidate s = (latchHigh (preamble s.mag s.j.toNat) s, .noPreamble) := by
  rw [candidate_normal hm, normalCandidate]
  simp [h]

theorem candidate_of_pass (h : (preamble s.mag s.j.toNat).pass = true) :
    candidate s = judgeSlice s.j.toNat (writeSlice s.j.toNat (latchHigh (preamble s.mag s.j.toNat) s)) := by
  rw [candidate_normal hm, normalCandidate]
  simp [h]

/-- A candidate that passes the preamble test is judged by the slice of its own samples. -/
theorem candidate_judged_of_pass (h : (preamble s.mag s.j.toNat).pass = true) :
    let sliced := latchedSlice s.mag s.j.toNat (latchHigh (preamble s.mag s.j.toNat) s)
    Judged sliced (2550 ≤ quality s.mag s.j.toNat sliced.msgBits.toNat) (candidate s).2 (candidate s).1 := by
  have hjudged := judgeSlice_judged s.j.toNat (writeSlice s.j.toNat (latchHigh (preamble s.mag s.j.toNat) s))
  rwa [latchLength_writeSlice, writeSlice_mag, latchHigh_mag, ← candidate_of_pass hm h] at hjudged

end Normal

/-- Settles O51: the preamble test decides between NoPreamble and a slice that is judged (`candidate_judged_of_pass`). -/
theorem candidateOutcomesOfTheNormalMode : Obligations.CandidateOutcomesOfTheNormalMode := by
  intro s hm v seen sliced strong
  have hseen : latchHigh v s = seen := latchHigh_eq v s
  have hjudged : v.pass = true → Judged sliced strong (candidate s).2 (candidate s).1 := fun h => by
    have hend := candidate_judged_of_pass hm h
    rwa [hseen] at hend
  refine ⟨⟨fun ho => eq_false_of_ne_true fun h => (hjudged h).ne_noPreamble ho, fun h => ?_⟩, fun h => ?_, hjudged⟩
  · rw [candidate_of_not_pass hm h]
  · rw [candidate_of_not_pass hm h, hseen]

/-! ### The retry (R229) -/

/-- The quality is measured on what the samples read as (R230). -/
theorem quality_congr {mag mag' : Memory 16} (h : ∀ a, mag.read a = mag'.read a) (j bits : Nat) :
    quality mag j bits = quality mag' j bits := by
  simp only [quality, bitSamples, sampleAt, h]

/-- A retry slices the corrected samples; its next state is said but for MAG and AUX, which it has saved and restored. -/
theorem latchLength_retrySlice (j : Nat) (s : State) :
    latchLength (retrySlice j s) =
      latchedSlice (if j ≠ 0 ∧ phase s.mag j ≠ 0 then correct s.mag j else s.mag) j
        { s with mag := (retrySlice j s).mag, aux := (retrySlice j s).aux } := by
  have hrestore : ∀ u, latchLength (restoreRegion j u) = { latchLength u with mag := (restoreRegion j u).mag } :=
    fun _ => rfl
  rw [retrySlice, hrestore, latchLength_writeSlice, correctRegion_mag, saveRegion_mag]
  simp only [latchedSlice, latchLength]
  rfl

/-- AUX holds the 224 samples of the data region as they were before the correction (R229). -/
theorem read_retrySlice_aux (j : Nat) (s : State) (x : Nat) :
    (retrySlice j s).aux.read x = if x < 224 then s.mag.read (j + 16 + x) else s.aux.read x := by
  have haux : (retrySlice j s).aux = s.aux.writeBlock 0 (s.mag.readBlock (j + 16) 224) := by
    simp [retrySlice, Config.preambleSamples, Config.auxCap]
  rw [haux, Memory.read_writeBlock, Memory.length_readBlock, Nat.zero_add, Nat.sub_zero]
  simp only [Nat.zero_le, true_and]
  exact ite_congr rfl (fun hx => Memory.getD_readBlock _ _ _ hx) fun _ => rfl

/-- A judgement leaves AUX alone. -/
theorem judgeSlice_aux (j : Nat) (s : State) : (judgeSlice j s).1.aux = s.aux :=
  congrArg (fun r => r.1.aux) (judgeSlice_withAux s.aux s j)

/-- Settles O52: the retry's slice is judged with MAG restored (`read_retrySlice`), so with the quality of the samples as
they were. -/
theorem retryRestoresTheDataRegion : Obligations.RetryRestoresTheDataRegion := by
  intro s hm j t corrected sliced strong
  have hcandidate : candidate s = judgeSlice j (retrySlice j s) := candidate_retry hm
  have hmag : t.mag = (retrySlice j s).mag := by
    obtain ⟨-, hmag, -⟩ := judgeSlice_spec j (retrySlice j s)
    rwa [← hcandidate] at hmag
  have haux : t.aux = (retrySlice j s).aux := by
    rw [← judgeSlice_aux j (retrySlice j s), ← hcandidate]
  have hjudged := judgeSlice_judged j (retrySlice j s)
  rw [← hcandidate] at hjudged
  have hsliced : latchLength (retrySlice j s) = sliced := by
    rw [latchLength_retrySlice, ← hmag, ← haux]
  rw [hsliced, quality_congr (read_retrySlice j s)] at hjudged
  refine ⟨hjudged, hjudged.ne_noPreamble, fun a => ?_, fun x => ?_⟩
  · rw [hmag, read_retrySlice]
  · rw [haux, read_retrySlice_aux]

end Sys2Proof.Machine
end

section
/-! SUPPORT. The scan (O53, O54, O58): one induction over the loop, and three facts that a candidate with its transition
keeps: J lies inside the vector and a retry stands only where the loop goes on; OUTQ grows by no more than what is left of
the vector holds; and the appended records describe their bytes. No premise on the state is needed for any of them. -/

namespace Sys2Proof.Machine

/-! ### One turn of the loop (R227, R233) -/

/-- A candidate and its transition. -/
def nextCandidate (s : State) : State := applyTransition (candidate s).2 (candidate s).1

/-- What every turn of the loop keeps holds after the loop. -/
theorem scanLoop_induction {P : State → Prop} (hstep : ∀ s, P s → scanGoesOn s = true → P (nextCandidate s)) (n : Nat)
    {s : State} (count : Nat) (h : P s) : P (scanLoop n s count).1 := by
  induction n generalizing s count with
  | zero => exact h
  | succ n ih =>
    simp only [scanLoop]
    split
    · next hg => exact ih _ (hstep s h hg)
    · exact h

theorem runScan_induction {P : State → Prop} {s : State}
    (hstep : ∀ t, P t → scanGoesOn t = true → P (nextCandidate t)) (h : P (startScan s)) : P (runScan s).1 :=
  scanLoop_induction hstep _ 0 h

theorem nextCandidate_frame (s : State) : ScanFrame s (nextCandidate s) :=
  ScanFrame.trans (candidate_spec s).1 (by constructor <;> rfl)

/-- One turn moves J by at most 241 and appends at most one record for 129 samples; J stands still only where a failed
candidate starts its retry. Inside the vector J does not wrap (R31). -/
theorem nextCandidate_moves {s : State} (hg : scanGoesOn s = true) :
    ∃ x k, (nextCandidate s).j.toNat = s.j.toNat + x ∧ x ≤ 241 ∧ 129 * k ≤ x ∧
      (nextCandidate s).outq.length = s.outq.length + k ∧
      ((x = 0 ∧ s.mode = .scanningNormal ∧ (nextCandidate s).mode = .retryWithPhaseCorrection) ∨
        (0 < x ∧ (nextCandidate s).mode = .scanningNormal)) := by
  have hlt := scanGoesOn_iff.1 hg
  have hlen : s.magLen.toNat < 2 ^ 24 := s.magLen.isLt
  obtain ⟨x, k, hJ, hx, hk, hq, hM⟩ := candidate_moves s
  exact ⟨x, k, applyTransition_j_toNat hJ (by omega), hx, hk, hq, hM⟩

/-! ### The loop ends by its condition (R233, R234) -/

/-- J is inside the vector, and a retry stands only where the loop goes on. -/
structure InPlace (s : State) : Prop where
  place : s.j.toNat ≤ s.magLen.toNat
  retry : s.mode = .retryWithPhaseCorrection → scanGoesOn s = true

theorem inPlace_nextCandidate {s : State} (hg : scanGoesOn s = true) : InPlace (nextCandidate s) := by
  have hlt := scanGoesOn_iff.1 hg
  have hlen := (nextCandidate_frame s).magLen
  obtain ⟨x, -, hj, hx, -, -, hM⟩ := nextCandidate_moves hg
  refine ⟨by rw [hj, hlen]; omega, fun hr => ?_⟩
  obtain ⟨rfl, -, -⟩ | ⟨-, hn⟩ := hM
  · rwa [scanGoesOn_iff, hj, hlen]
  · rw [hn] at hr
    cases hr

/-- Each turn leaves one candidate fewer. -/
theorem candidatesLeft_nextCandidate {s : State} (hg : scanGoesOn s = true) :
    candidatesLeft (nextCandidate s) < candidatesLeft s := by
  have hlt := scanGoesOn_iff.1 hg
  have hlen := (nextCandidate_frame s).magLen
  obtain ⟨x, -, hj, -, -, -, hM⟩ := nextCandidate_moves hg
  simp only [candidatesLeft, hj, hlen]
  obtain ⟨rfl, hn, hr⟩ | ⟨hpos, hn⟩ := hM
  · simp only [hn, hr, reduceCtorEq, if_true, if_false]
    omega
  · simp only [hn, reduceCtorEq, if_false]
    split <;> omega

/-- A loop that may judge every candidate left is not ended by its bound. -/
theorem scanLoop_completes (n : Nat) {s : State} (count : Nat) (hn : candidatesLeft s ≤ n) :
    scanGoesOn (scanLoop n s count).1 = false := by
  induction n generalizing s count with
  | zero => exact scanGoesOn_eq_false (Nat.le_zero.1 hn)
  | succ n ih =>
    simp only [scanLoop]
    split
    · next hg => exact ih _ (Nat.le_of_lt_succ ((candidatesLeft_nextCandidate hg).trans_le hn))
    · next hg => exact eq_false_of_ne_true hg

theorem runScan_completes (s : State) : ¬ (runScan s).1.j.toNat + 240 < s.magLen.toNat := by
  have hleft : candidatesLeft (startScan s) ≤ 2 * (s.magLen.toNat - Config.fullLen) := by
    simp [candidatesLeft, Config.fullLen]
  have hend : scanGoesOn (runScan s).1 = false := scanLoop_completes _ 0 hleft
  rw [← (runScan_frame s).1.magLen, ← scanGoesOn_iff]
  exact ne_true_of_eq_false hend

theorem runScan_inPlace (s : State) : InPlace (runScan s).1 :=
  runScan_induction (fun _ _ hg => inPlace_nextCandidate hg) ⟨Nat.zero_le _, (nomatch ·)⟩

theorem runScan_mode (s : State) : (runScan s).1.mode = .scanningNormal := by
  cases hm : (runScan s).1.mode with
  | scanningNormal => rfl
  | retryWithPhaseCorrection =>
    have hg := scanGoesOn_iff.1 ((runScan_inPlace s).retry hm)
    rw [(runScan_frame s).1.magLen] at hg
    exact absurd hg (runScan_completes s)

/-- Without a position there is no candidate. -/
theorem runScan_of_short {s : State} (h : s.magLen.toNat ≤ 240) : runScan s = (startScan s, 0) := by
  have hbound : 2 * (s.magLen.toNat - Config.fullLen) = 0 := by
    simp only [Config.fullLen]
    omega
  rw [runScan, hbound]
  rfl

/-- Settles O54. -/
theorem scanRunsToCompletion : Obligations.ScanRunsToCompletion := by
  intro s
  have hlen := (runScan_frame s).1.magLen
  have hend := runScan_completes s
  have hplace := (runScan_inPlace s).place
  rw [hlen] at hplace
  exact ⟨runScan_mode s, hlen, hend, runScan_of_short, fun _ => ⟨by omega, hplace⟩⟩

/-! ### The worst case of OUTQ (R237) -/

theorem maxMsg_eq (len : Nat) : maxMsg len = if len ≤ 240 then 0 else (len - 240 + 128) / 129 := rfl

/-- The records that what is left of the vector can still append: one for each 129 samples begun. -/
def recordsLeft (s : State) : Nat := (s.magLen.toNat - 240 - s.j.toNat + 128) / 129

theorem recordsLeft_startScan (s : State) : recordsLeft (startScan s) = maxMsg s.magLen.toNat := by
  have hj : (startScan s).j.toNat = 0 := rfl
  rw [recordsLeft, hj, startScan_magLen, maxMsg_eq]
  split <;> omega

/-- What one turn appends it takes from the records left. -/
theorem outq_add_recordsLeft_nextCandidate {s : State} (hg : scanGoesOn s = true) :
    (nextCandidate s).outq.length + recordsLeft (nextCandidate s) ≤ s.outq.length + recordsLeft s := by
  have hlt := scanGoesOn_iff.1 hg
  have hlen := (nextCandidate_frame s).magLen
  obtain ⟨x, k, hj, hx, hk, hq, -⟩ := nextCandidate_moves hg
  rw [recordsLeft, recordsLeft, hj, hlen, hq]
  omega

/-- A scan never pushes more than the worst case. -/
theorem runScan_outq_length_le (s : State) : (runScan s).1.outq.length ≤ s.outq.length + maxMsg s.magLen.toNat := by
  have hkept : (runScan s).1.outq.length + recordsLeft (runScan s).1 ≤ s.outq.length + maxMsg s.magLen.toNat :=
    runScan_induction (P := fun t => t.outq.length + recordsLeft t ≤ s.outq.length + maxMsg s.magLen.toNat)
      (fun _ h hg => (outq_add_recordsLeft_nextCandidate hg).trans h) (by rw [recordsLeft_startScan]; rfl)
  omega

/-! ### SCAN (R235) -/

/-- The check of R237, in a queue inside its capacity. -/
theorem queueLacksRoom_iff {s : State} {len : Nat} (hq : s.outq.length ≤ 4096) :
    queueLacksRoom s len = true ↔ 4096 < s.outq.length + maxMsg len := by
  rw [queueLacksRoom, decide_eq_true_iff, Config.defaults_outqCap]
  omega

theorem scanValue_eq (j count : BitVec 24) : scanValue j count = BitVec.ofNat 56 (count.toNat + 2 ^ 24 * j.toNat) := by
  have hj := j.isLt
  have hcount := count.isLt
  refine BitVec.eq_of_toNat_eq ?_
  simp only [scanValue, toNat_append_add, BitVec.ofNat_eq_ofNat, BitVec.toNat_ofNat]
  omega

theorem scanAndRespond_next (s : State) :
    scanAndRespond s =
      .next (withResponse .ok (scanValue (runScan s).1.j (BitVec.ofNat 24 (runScan s).2)) (runScan s).1) := rfl

/-- The scan's answer, its count fitting 24 bits. -/
theorem scanAndRespond_eq {s : State} {n : Nat} (hcount : (runScan s).2 = n) (hn : n < 2 ^ 24) :
    scanAndRespond s = .next { (runScan s).1 with rsp := okAnswer (n + 2 ^ 24 * (runScan s).1.j.toNat) } := by
  have hvalue : scanValue (runScan s).1.j (BitVec.ofNat 24 (runScan s).2) =
      BitVec.ofNat 56 (n + 2 ^ 24 * (runScan s).1.j.toNat) := by
    rw [scanValue_eq, hcount, BitVec.toNat_ofNat, Nat.mod_eq_of_lt hn]
  rw [scanAndRespond_next, hvalue]
  rfl

section Scan
variable {s : State} (hf : s.fatal = false)
include hf

theorem exec_scan_of_full (hq : s.outq.length ≤ 4096) (hfull : 4096 < s.outq.length + maxMsg s.magLen.toNat) :
    exec .scan s = .next { s with rsp := errorAnswer .qFull } :=
  (whenRunning_running hf _).trans (if_pos ((queueLacksRoom_iff hq).2 hfull))

theorem exec_scan_of_room (hroom : s.outq.length + maxMsg s.magLen.toNat ≤ 4096) :
    exec .scan s = scanAndRespond s :=
  (whenRunning_running hf _).trans (if_neg (mt (queueLacksRoom_iff (by omega)).1 (Nat.not_lt.2 hroom)))

end Scan

/-- A scan and its answer as one replacement of the fields that they may change. -/
theorem ScanFrame.eq_with {s t : State} (h : ScanFrame s t) (rsp : Option PortWord) :
    { t with rsp := rsp } = { s with
      mag := t.mag, aux := t.aux, bits := t.bits, msg := t.msg, errors := t.errors, df0 := t.df0, msgBits := t.msgBits
      high := t.high, j := t.j, mode := t.mode, cache := t.cache, outq := t.outq, rsp := rsp } := by
  rw [← h.chunk, ← h.ptr, ← h.chunkLen, ← h.magLen, ← h.ts, ← h.out, ← h.fatal, ← h.fatalCause, ← h.inputs]

/-- Settles O53. -/
theorem scanCompletesWithinItsBound : Obligations.ScanCompletesWithinItsBound := by
  intro s hf worst
  have hworst : maxMsg s.magLen.toNat = worst := rfl
  refine ⟨fun hroom => ?_, fun hfull hq => exec_scan_of_full hf hq (by rwa [hworst])⟩
  obtain ⟨hframe, new, houtq, hcount⟩ := runScan_frame s
  have hnew : new.length ≤ worst := by
    have hle := runScan_outq_length_le s
    rw [houtq, List.length_append, hworst] at hle
    omega
  refine ⟨_, new, (exec_scan_of_room hf (by rwa [hworst])).trans (scanAndRespond_eq hcount (by omega)), hnew, ?_⟩
  dsimp only
  generalize okAnswer _ = answer
  rw [← houtq]
  exact hframe.eq_with answer

/-! ### The records (R232, R39) -/

/-- What a record says of itself: the time of the scan, the format and the address of its own bytes, and zeros past a short
message (R39). -/
structure OutRecord.DescribesItself (r : OutRecord) (now : Ticks) : Prop where
  ts : r.ts = now
  df : r.df.toNat = (msgByte r.bytes 0).toNat / 8
  addr : r.addr.toNat = if r.av then (msgByte r.bytes 1).toNat * 65536 + (msgByte r.bytes 2).toNat * 256 +
    (msgByte r.bytes 3).toNat else 0
  short : r.long = false → ∀ n, 7 ≤ n → n < 14 → msgByte r.bytes n = 0

/-- A record that describes a state with a latched length describes itself: it holds the first seven bytes in any case. -/
theorem OutRecord.Describes.describesItself {r : OutRecord} {t : State} (h : r.Describes t)
    (hbits : t.msgBits = 56 ∨ t.msgBits = 112) : r.DescribesItself t.ts := by
  have hseven : 7 ≤ t.msgBits.toNat / 8 := by
    rcases hbits with hb | hb <;> rw [hb] <;> decide
  have hbyte : ∀ n < 7, msgByte r.bytes n = msgByte t.msg n := fun n hn => by
    rw [h.bytes n (by omega), if_pos (by omega)]
  refine ⟨h.ts, ?_, ?_, fun hlong n h7 hn => ?_⟩
  · rw [hbyte 0 (by omega), h.df]
  · rw [hbyte 1 (by omega), hbyte 2 (by omega), hbyte 3 (by omega), h.addr]
  · have hshort : t.msgBits = 56 := hbits.resolve_right (mt h.long.2 (Bool.eq_false_iff.1 hlong))
    have hlast : ¬ n < t.msgBits.toNat / 8 := by
      rw [hshort]
      exact Nat.not_lt.2 h7
    rw [h.bytes n hn, if_neg hlast]

theorem Judged.record {sliced t : State} {strong : Prop} {o : CandidateOutcome} (h : Judged sliced strong o t)
    (ho : o = .accepted) : ∃ r : OutRecord, r.Describes t ∧ t.outq = sliced.outq ++ [r] := by
  obtain ⟨r, hr, ht⟩ := h.accepted ho
  exact ⟨r, hr, congrArg State.outq ht⟩

/-- The record that an accepted candidate appends, in both modes. -/
theorem candidate_record {s : State} (ho : (candidate s).2 = .accepted) :
    ∃ r : OutRecord, r.Describes (candidate s).1 ∧ (candidate s).1.outq = s.outq ++ [r] := by
  cases hm : s.mode with
  | scanningNormal =>
    have hpass : (preamble s.mag s.j.toNat).pass = true := by
      refine eq_true_of_ne_false fun h => ?_
      rw [candidate_of_not_pass hm h] at ho
      cases ho
    obtain ⟨r, hr, hq⟩ := (candidate_judged_of_pass hm hpass).record ho
    exact ⟨r, hr, by rw [hq, latchedSlice_outq, latchHigh_outq]⟩
  | retryWithPhaseCorrection =>
    have hcandidate : candidate s = judgeSlice s.j.toNat (retrySlice s.j.toNat s) := candidate_retry hm
    have hjudged := judgeSlice_judged s.j.toNat (retrySlice s.j.toNat s)
    obtain ⟨-, houtq, -⟩ := retrySlice_frame s.j.toNat s
    rw [← hcandidate] at hjudged
    obtain ⟨r, hr, hq⟩ := hjudged.record ho
    exact ⟨r, hr, by rw [hq, latchLength_outq, houtq]⟩

/-- What one turn appends to OUTQ describes itself. -/
theorem mem_outq_nextCandidate {s : State} {r : OutRecord} (h : r ∈ (nextCandidate s).outq) :
    r ∈ s.outq ∨ r.DescribesItself s.ts := by
  obtain ⟨hframe, -, -, happ, hbits⟩ := candidate_spec s
  rw [nextCandidate, applyTransition_outq] at h
  by_cases ho : (candidate s).2 = .accepted
  · obtain ⟨r', hr', hq⟩ := candidate_record ho
    have hself := hr'.describesItself (hbits.resolve_left (by rw [ho]; exact (nomatch ·)))
    rw [hframe.ts] at hself
    rw [hq, List.mem_append, List.mem_singleton] at h
    exact h.imp_right fun hr => by rwa [hr]
  · have hq : (candidate s).1.outq = s.outq := by simpa [Appends, ho] using happ
    exact .inl (hq ▸ h)

theorem mem_outq_runScan {s : State} {r : OutRecord} (h : r ∈ (runScan s).1.outq) :
    r ∈ s.outq ∨ r.DescribesItself s.ts := by
  have hall : (runScan s).1.ts = s.ts ∧ ∀ r ∈ (runScan s).1.outq, r ∈ s.outq ∨ r.DescribesItself s.ts := by
    refine runScan_induction (P := fun t => t.ts = s.ts ∧ ∀ r ∈ t.outq, r ∈ s.outq ∨ r.DescribesItself s.ts)
      (fun t ⟨hts, hold⟩ _ => ⟨(nextCandidate_frame t).ts.trans hts, fun r hr => ?_⟩) ⟨rfl, fun r hr => .inl hr⟩
    exact (mem_outq_nextCandidate hr).elim (hold r) fun hself => .inr (hts ▸ hself)
  exact hall.2 r h

/-- Settles O58. -/
theorem recordsDescribeTheirBytes : Obligations.RecordsDescribeTheirBytes := by
  intro s t _ h r hr
  obtain ⟨st, v, u, rfl, e⟩ := exec_cases h
  rw [withResponse_outq] at hr
  cases e with
  | unchanged => exact .inl hr
  | fatal hi => rcases hi with hi | hi <;> cases hi
  | scan => exact (mem_outq_runScan hr).imp_right fun hself => ⟨hself.ts, hself.df, hself.addr, hself.short⟩

end Sys2Proof.Machine
end

section
/-! SUPPORT. DEMOD as MAGVEC followed by SCAN (O56): MAGVEC's answer, which DEMOD does not give, does not show in the scan. -/

namespace Sys2Proof.Machine

/-! ### The scan does not read the last answer -/

section Answered
variable (st : Status) (v : Word56) (s : State)

theorem judgeMessage_withResponse :
    judgeMessage (withResponse st v s) = (withResponse st v (judgeMessage s).1, (judgeMessage s).2) := by
  have hvalidate : validateMsg (withResponse st v s).ts (withResponse st v s) =
    (withResponse st v (validateMsg s.ts s).1, (validateMsg s.ts s).2) := rfl
  simp only [judgeMessage, hvalidate]
  change (if s.errors ≠ 0 then _ else _) = _
  split
  · rfl
  · split <;> rfl

theorem judgeSlice_withResponse (j : Nat) :
    judgeSlice j (withResponse st v s) = (withResponse st v (judgeSlice j s).1, (judgeSlice j s).2) := by
  have hlatch : latchLength (withResponse st v s) = withResponse st v (latchLength s) := rfl
  simp only [judgeSlice, hlatch, judgeMessage_withResponse]
  change (if qualityPasses (quality (latchLength s).mag j (latchLength s).msgBits.toNat) then _ else _) = _
  split <;> rfl

theorem writeSlice_withResponse (j : Nat) : writeSlice j (withResponse st v s) = withResponse st v (writeSlice j s) := by
  simp only [writeSlice, withResponse]

theorem latchHigh_withResponse (p : PreambleVerdict) :
    latchHigh p (withResponse st v s) = withResponse st v (latchHigh p s) := by
  rw [latchHigh_eq, latchHigh_eq]
  rfl

theorem retrySlice_withResponse (j : Nat) : retrySlice j (withResponse st v s) = withResponse st v (retrySlice j s) := by
  have hcorrect : correctRegion j (saveRegion j (withResponse st v s)) =
    withResponse st v (correctRegion j (saveRegion j s)) := rfl
  have hrestore : ∀ u, restoreRegion j (withResponse st v u) = withResponse st v (restoreRegion j u) := fun _ => rfl
  rw [retrySlice, hcorrect, writeSlice_withResponse, hrestore, retrySlice]

theorem candidate_withResponse :
    candidate (withResponse st v s) = (withResponse st v (candidate s).1, (candidate s).2) := by
  cases hm : s.mode with
  | scanningNormal =>
    have hm' : (withResponse st v s).mode = .scanningNormal := hm
    cases hp : (preamble s.mag s.j.toNat).pass with
    | false => rw [candidate_of_not_pass hm hp, candidate_of_not_pass hm' hp, ← latchHigh_withResponse]; rfl
    | true =>
      rw [candidate_of_pass hm hp, candidate_of_pass hm' hp, ← judgeSlice_withResponse, ← writeSlice_withResponse,
        ← latchHigh_withResponse]
      rfl
  | retryWithPhaseCorrection =>
    rw [candidate_retry hm, candidate_retry (s := withResponse st v s) hm, retryCandidate, retryCandidate,
      retrySlice_withResponse, judgeSlice_withResponse]
    rfl

theorem scanLoop_withResponse (n count : Nat) :
    scanLoop n (withResponse st v s) count = (withResponse st v (scanLoop n s count).1, (scanLoop n s count).2) := by
  induction n generalizing s count with
  | zero => rfl
  | succ n ih =>
    have hg : scanGoesOn (withResponse st v s) = scanGoesOn s := rfl
    simp only [scanLoop, hg, candidate_withResponse]
    split
    · exact ih (applyTransition (candidate s).2 (candidate s).1) _
    · rfl

theorem runScan_withResponse :
    runScan (withResponse st v s) = (withResponse st v (runScan s).1, (runScan s).2) :=
  scanLoop_withResponse st v (startScan s) _ 0

/-- A scan gives the same answer whatever the answer before it was. -/
theorem scanAndRespond_withResponse : scanAndRespond (withResponse st v s) = scanAndRespond s := by
  have hlast : ∀ x u, withResponse .ok x (withResponse st v u) = withResponse .ok x u := fun _ _ => rfl
  rw [scanAndRespond_next, scanAndRespond_next, runScan_withResponse, withResponse_j, hlast]

end Answered

/-! ### DEMOD (R236) -/

section Demod
variable {s : State} (hf : s.fatal = false)
include hf

theorem exec_demod_of_bad (hbad : chunkLenBad s.chunkLen = true) :
    exec .demod s = .next { s with fatal := true, fatalCause := 0x03, rsp := errorAnswer .chunkLen } :=
  (whenRunning_running hf _).trans (if_pos hbad)

theorem exec_demod_of_full (hgood : ¬ chunkLenBad s.chunkLen = true)
    (hfull : queueLacksRoom s (s.chunkLen.toNat / 2) = true) :
    exec .demod s = .next { s with rsp := errorAnswer .qFull } :=
  (whenRunning_running hf _).trans ((if_neg hgood).trans (if_pos hfull))

theorem exec_demod_of_room (hgood : ¬ chunkLenBad s.chunkLen = true)
    (hroom : ¬ queueLacksRoom s (s.chunkLen.toNat / 2) = true) :
    exec .demod s = scanAndRespond (buildVector s) :=
  (whenRunning_running hf _).trans ((if_neg hgood).trans (if_neg hroom))

/-- With room, MAGVEC and then SCAN make the same scan. -/
theorem exec_magvec_then_scan (hgood : ¬ chunkLenBad s.chunkLen = true)
    (hroom : s.outq.length + maxMsg (s.chunkLen.toNat / 2) ≤ 4096) :
    ∃ m, exec .magvec s = .next m ∧ exec .scan m = scanAndRespond (buildVector s) := by
  have hlen : (buildVector s).magLen.toNat = s.chunkLen.toNat / 2 := by
    rw [buildVector_magLen, BitVec.toNat_ofNat, Nat.mod_eq_of_lt ((Nat.div_le_self _ _).trans_lt s.chunkLen.isLt)]
  refine ⟨_, (exec_magvec hf).trans (if_neg hgood), ?_⟩
  rw [exec_scan_of_room, scanAndRespond_withResponse]
  · rw [withResponse_fatal, buildVector_fatal, hf]
  · rwa [withResponse_outq, withResponse_magLen, buildVector_outq, hlen]

end Demod

/-- The scan's answer is no error. -/
theorem withResponse_ok_rsp_ne (v : Word56) (s : State) {st : Status} (hst : st ≠ .ok) :
    (withResponse .ok v s).rsp ≠ errorAnswer st :=
  fun h => hst (responseWord_inj.1 (Option.some.inj h)).1.symm

/-- Settles O56. -/
theorem demodIsMagvecThenScan : Obligations.DemodIsMagvecThenScan := by
  refine ⟨rfl, ?_⟩
  intro s hf bad worst
  have hbad : chunkLenBad s.chunkLen = true ↔ bad := chunkLenBad_iff
  have hworst : maxMsg (s.chunkLen.toNat / 2) = worst := rfl
  refine ⟨fun h => exec_demod_of_bad hf (hbad.2 h), fun hgood hroom => ?_, fun hgood hfull hq => ?_⟩
  · have hlacks : ¬ queueLacksRoom s (s.chunkLen.toNat / 2) = true := by
      rw [queueLacksRoom_iff (by omega), hworst]
      exact Nat.not_lt.2 hroom
    obtain ⟨m, hm, hscan⟩ := exec_magvec_then_scan hf (mt hbad.1 hgood) (by rwa [hworst])
    refine ⟨m, _, hm, hscan.trans (scanAndRespond_next _), ?_, withResponse_ok_rsp_ne _ _ (nomatch ·)⟩
    exact (exec_demod_of_room hf (mt hbad.1 hgood) hlacks).trans (scanAndRespond_next _)
  · exact exec_demod_of_full hf (mt hbad.1 hgood) ((queueLacksRoom_iff hq).2 (by rwa [hworst]))

end Sys2Proof.Machine
end

section
/-! SUPPORT. Two vectors whose scan is known whole (O57, O59): the flat one, where no place has a preamble, and the silent one
with one ideal frame, where no place has a preamble but the frame's start. The second scan is followed from before the frame
to past it. -/

namespace Sys2Proof.Machine

/-! ### A place without the shape (R141, R142) -/

/-- The shape test asks the first sample to be greater than the second. -/
theorem not_preambleShape_of_le {mag : Memory 16} {j : Nat} (h : sampleAt mag j ≤ sampleAt mag (j + 1)) :
    ¬ preambleShape mag j = true := by
  rw [preambleShape_iff]
  exact fun hshape => Nat.not_lt.2 h hshape.1

/-- A normal candidate without the shape leaves the state as it is, and J moves by one. -/
theorem nextCandidate_of_not_shape {s : State} (hm : s.mode = .scanningNormal)
    (h : ¬ preambleShape s.mag s.j.toNat = true) :
    nextCandidate s = { s with j := BitVec.ofNat 24 (s.j.toNat + 1), mode := .scanningNormal } := by
  have hverdict : preamble s.mag s.j.toNat = ⟨false, false, 0⟩ := if_neg h
  have hcandidate : candidate s = (s, .noPreamble) := by
    rw [candidate_of_not_pass hm (by rw [hverdict]), hverdict]
    rfl
  rw [nextCandidate, hcandidate, applyTransition, hm]
  rfl

/-- J inside the vector moves by one without a wrap (R31). -/
theorem toNat_ofNat_succ_of_scanGoesOn {s : State} (hg : scanGoesOn s = true) :
    (BitVec.ofNat 24 (s.j.toNat + 1)).toNat = s.j.toNat + 1 := by
  have hlt := scanGoesOn_iff.1 hg
  have hlen : s.magLen.toNat < 2 ^ 24 := s.magLen.isLt
  rw [BitVec.toNat_ofNat, Nat.mod_eq_of_lt (by omega)]

/-- An empty queue has room for the scan of a vector of the default capacity (R237). -/
theorem room_of_empty {s : State} (hq : s.outq = []) (hcap : s.magLen.toNat ≤ 131072) :
    s.outq.length + maxMsg s.magLen.toNat ≤ 4096 := by
  rw [hq, List.length_nil, maxMsg_eq]
  split <;> omega

/-- The count of a scan is what OUTQ has grown by. -/
theorem runScan_count {s : State} {new : List OutRecord} (h : (runScan s).1.outq = s.outq ++ new) :
    (runScan s).2 = new.length := by
  obtain ⟨-, new', houtq, hcount⟩ := runScan_frame s
  rw [hcount, List.append_cancel_left (houtq.symm.trans h)]

/-! ### The flat vector (R235) -/

/-- A scan of a vector without the shape anywhere moves J to the end. -/
theorem runScan_of_not_shape {s : State} (hlen : 240 < s.magLen.toNat)
    (h : ∀ j, j + 240 < s.magLen.toNat → ¬ preambleShape s.mag j = true) :
    (runScan s).1 = { s with j := BitVec.ofNat 24 (s.magLen.toNat - 240), mode := .scanningNormal } := by
  obtain ⟨j, heq, hj⟩ : ∃ j : BitVec 24, (runScan s).1 = { s with j := j, mode := .scanningNormal } ∧
      j.toNat + 240 ≤ s.magLen.toNat := by
    refine runScan_induction (P := fun t => ∃ j : BitVec 24, t = { s with j := j, mode := .scanningNormal } ∧
      j.toNat + 240 ≤ s.magLen.toNat) ?_ ⟨0, rfl, hlen.le⟩
    rintro t ⟨j, rfl, -⟩ hg
    have hlt := scanGoesOn_iff.1 hg
    refine ⟨_, nextCandidate_of_not_shape rfl (h _ hlt), ?_⟩
    rw [toNat_ofNat_succ_of_scanGoesOn hg]
    dsimp only at hlt ⊢
    omega
  have hend := runScan_completes s
  rw [heq] at hend ⊢
  dsimp only at hend
  rw [show s.magLen.toNat - 240 = j.toNat by omega, BitVec.ofNat_toNat, BitVec.setWidth_eq]

/-- Settles O57: equal samples have no shape. -/
theorem flatVectorYieldsNothing : Obligations.FlatVectorYieldsNothing := by
  intro s level hf hlen hcap hq hflat
  have hscan := runScan_of_not_shape hlen fun j hj => by
    refine not_preambleShape_of_le ?_
    rw [sampleAt, sampleAt, hflat j (by omega), hflat (j + 1) (by omega)]
  have hcount : (runScan s).2 = 0 := runScan_count (new := []) (by rw [hscan, List.append_nil])
  have hj : (BitVec.ofNat 24 (s.magLen.toNat - 240)).toNat = s.magLen.toNat - 240 := by
    rw [BitVec.toNat_ofNat, Nat.mod_eq_of_lt (by omega)]
  rw [exec_scan_of_room hf (room_of_empty hq hcap), scanAndRespond_eq hcount (by decide), hscan]
  dsimp only
  rw [hj, Nat.zero_add]

/-! ### The ideal frame (95_test_vectors.md S9) -/

/-- Sample `a` of the ideal transmission of `M` from `x` on at level `H`: the four pulses of the preamble, then for every
bit its pulse in the first half when it is 1 and in the second when it is 0; silence around the frame. -/
def idealSample (M : Msg) (H : BitVec 16) (x a : Nat) : BitVec 16 :=
  if a < x ∨ x + 240 ≤ a then 0
  else if a < x + 16 then (if a = x ∨ a = x + 2 ∨ a = x + 7 ∨ a = x + 9 then H else 0)
  else if M.getMsbD ((a - x - 16) / 2) = decide ((a - x) % 2 = 0) then H else 0

/-- A packed byte of unambiguous symbols is the byte of those bits (R164). -/
theorem ofNat_packed_bits : ∀ B : Byte, BitVec.ofNat 8 ((((((((B.getMsbD 0).toNat <<< 7 ||| (B.getMsbD 1).toNat <<< 6)
    ||| (B.getMsbD 2).toNat <<< 5) ||| (B.getMsbD 3).toNat <<< 4) ||| (B.getMsbD 4).toNat <<< 3)
    ||| (B.getMsbD 5).toNat <<< 2) ||| (B.getMsbD 6).toNat <<< 1) ||| (B.getMsbD 7).toNat) = B := by decide

theorem getMsbD_msgByte (M : Msg) {n t : Nat} (hn : n < 14) (ht : t < 8) :
    (msgByte M n).getMsbD t = M.getMsbD (8 * n + t) := by
  have hplace : 8 * (13 - n) + (8 - 1 - t) = 112 - 1 - (8 * n + t) := by omega
  simp only [msgByte, BitVec.getMsbD, BitVec.getLsbD_extractLsb', ht, hplace]
  simp [show 7 - t < 8 by omega, show 8 * n + t < 112 by omega]

/-- The message packed from unambiguous symbols is the message of those bits (R164). -/
theorem packBits_of_bits {bits : Vector Symbol 112} {M : Msg}
    (h : ∀ k < 112, symbolAt bits k = if M.getMsbD k then .one else .zero) : packBits bits = M := by
  refine msg_ext fun n hn => ?_
  have hsymbol : ∀ t < 8, symbolNat (symbolAt bits (8 * n + t)) = ((msgByte M n).getMsbD t).toNat := fun t ht => by
    rw [h _ (by omega), getMsbD_msgByte M hn ht]
    cases M.getMsbD (8 * n + t) <;> rfl
  rw [msgByte_packBits _ n hn, packByte_eq]
  dsimp only
  rw [hsymbol 0 (by omega), hsymbol 1 (by omega), hsymbol 2 (by omega), hsymbol 3 (by omega), hsymbol 4 (by omega),
    hsymbol 5 (by omega), hsymbol 6 (by omega), hsymbol 7 (by omega)]
  exact ofNat_packed_bits _

/-- The record of a long DF 17 message. -/
def frameRecord (M : Msg) (now : Ticks) : OutRecord :=
  { bytes := M, long := true, df := 17, av := true, addr := bytes24 M 1, ts := now }

/-- The record that describes a state with a long DF 17 message. -/
theorem OutRecord.Describes.eq_of_df17 {r : OutRecord} {t : State} (h : r.Describes t) (hbits : t.msgBits = 112)
    (hdf0 : t.df0 = 17) (hdf : (msgByte t.msg 0).toNat / 8 = 17) :
    r = frameRecord t.msg t.ts := by
  have hbytes : r.bytes = t.msg := msg_ext fun n hn => by
    rw [h.bytes n hn, hbits]
    exact if_pos hn
  have hav : r.av = true := h.av.2 (.inr hdf0)
  have haddr : r.addr = bytes24 t.msg 1 := BitVec.eq_of_toNat_eq (by rw [h.addr, if_pos hav, bytes24_toNat])
  have hformat : r.df = 17 := BitVec.eq_of_toNat_eq (h.df.trans hdf)
  rw [frameRecord]
  change (⟨r.bytes, r.long, r.df, r.av, r.addr, r.ts⟩ : OutRecord) = _
  rw [hbytes, h.long.2 hbits, hformat, hav, haddr, h.ts]

section Ideal
variable {mag : Memory 16} {M : Msg} {H : BitVec 16} {x : Nat} (hmag : ∀ a, mag.read a = idealSample M H x a)
include hmag

theorem sampleAt_of_silent {a : Nat} (ha : a < x ∨ x + 240 ≤ a) : sampleAt mag a = 0 := by
  rw [sampleAt, hmag, idealSample, if_pos ha]
  rfl

theorem sampleAt_of_preamble {i : Nat} (hi : i < 16) :
    sampleAt mag (x + i) = if i = 0 ∨ i = 2 ∨ i = 7 ∨ i = 9 then H.toNat else 0 := by
  rw [sampleAt, hmag, idealSample, if_neg (by omega), if_pos (by omega), apply_ite BitVec.toNat]
  exact if_congr (by omega) rfl rfl

theorem bitSamples_of_ideal {k : Nat} (hk : k < 112) :
    bitSamples mag x k = if M.getMsbD k then (H.toNat, 0) else (0, H.toNat) := by
  have hfirst : mag.read (x + 16 + 2 * k) = if M.getMsbD k then H else 0 := by
    rw [hmag, idealSample, if_neg (by omega), if_neg (by omega), show (x + 16 + 2 * k - x - 16) / 2 = k by omega,
      decide_eq_true (by omega)]
  have hsecond : mag.read (x + 17 + 2 * k) = if M.getMsbD k then 0 else H := by
    rw [hmag, idealSample, if_neg (by omega), if_neg (by omega), show (x + 17 + 2 * k - x - 16) / 2 = k by omega,
      decide_eq_false (by omega)]
    cases M.getMsbD k <;> rfl
  have hpair : bitSamples mag x k = ((mag.read (x + 16 + 2 * k)).toNat, (mag.read (x + 17 + 2 * k)).toNat) := rfl
  rw [hpair, hfirst, hsecond]
  cases M.getMsbD k <;> rfl

/-- No place but the frame's start, up to its last sample, has the shape. -/
theorem not_preambleShape_of_silent {a : Nat} (ha : a < x ∨ x + 240 ≤ a) : ¬ preambleShape mag a = true :=
  not_preambleShape_of_le (by rw [sampleAt_of_silent hmag ha]; exact Nat.zero_le _)

/-- The difference of a bit's samples is the level, so that no bit repeats the one before it. -/
theorem absDiff_bitSamples_of_ideal {k : Nat} (hk : k < 112) :
    absDiff (bitSamples mag x k).1 (bitSamples mag x k).2 = H.toNat := by
  rw [bitSamples_of_ideal hmag hk, absDiff]
  cases M.getMsbD k <;> simp

/-- The quality of an ideal frame is its level. -/
theorem quality_of_ideal : quality mag x 112 = H.toNat := by
  have hdiffs : ((List.range 112).map fun k => absDiff (bitSamples mag x k).1 (bitSamples mag x k).2) =
      (List.range 112).map fun _ => H.toNat :=
    List.map_congr_left fun k hk => absDiff_bitSamples_of_ideal hmag (List.mem_range.1 hk)
  rw [quality, hdiffs, List.map_const', List.sum_replicate, List.length_range, smul_eq_mul, Config.defaults_qdiv,
    Nat.mul_div_cancel_left _ (by decide)]

section Level
variable (hH : 2550 ≤ H.toNat)
include hH

/-- The preamble test passes at the frame's start: its level is two thirds of the pulses. -/
theorem preamble_pass_of_ideal : (preamble mag x).pass = true := by
  have hstart : sampleAt mag x = H.toNat := sampleAt_of_preamble hmag (i := 0) (by omega)
  have hlevel : preambleLevel mag x = 4 * H.toNat / 6 := by
    simp only [preambleLevel, hstart, sampleAt_of_preamble hmag, Nat.reduceLT, OfNat.ofNat_ne_zero, Nat.reduceEqDiff,
      or_self, or_false, or_true, if_true]
    omega
  have hshape : preambleShape mag x = true := by
    rw [preambleShape_iff]
    simp only [Nat.add_zero, hstart, sampleAt_of_preamble hmag, Nat.reduceLT, Nat.reduceEqDiff, or_self, or_false,
      or_true, if_true, if_false]
    omega
  have hquiet : preambleQuiet mag x (4 * H.toNat / 6) = true := by
    rw [preambleQuiet_iff]
    simp only [sampleAt_of_preamble hmag, Nat.reduceLT, Nat.reduceEqDiff, or_self, if_false]
    omega
  rw [preamble, if_pos hshape, hlevel]
  exact hquiet

theorem sliceBits_of_ideal {k : Nat} (hk : k < 112) :
    (sliceBits mag x).1.getD k .zero = if M.getMsbD k then .one else .zero := by
  have hdiff := absDiff_bitSamples_of_ideal hmag hk
  rw [sliceBits_getD mag x hk, sliceSymbol_of_not_repeats _ (by omega), bitSamples_of_ideal hmag hk]
  cases M.getMsbD k with
  | true => exact classify_of_gt (a := H.toNat) (b := 0) (by omega)
  | false => exact classify_of_lt (a := 0) (b := H.toNat) (by omega)

theorem errors_of_ideal : (sliceBits mag x).2 = 0 := by
  have hdiff := absDiff_bitSamples_of_ideal hmag (k := 0) (by omega)
  rw [sliceBits_errors, if_neg fun heq => ?_]
  rw [heq, absDiff_self] at hdiff
  omega

/-- The slice of an ideal frame is the frame's message (R162, R164). -/
theorem packBits_of_ideal : packBits (symbolVector (sliceBits mag x).1) = M :=
  packBits_of_bits fun k hk => by rw [symbolAt_symbolVector _ _ hk, sliceBits_of_ideal hmag hH hk]

end Level
end Ideal

theorem formatField_of_df17 {M : Msg} (hdf : (msgByte M 0).toNat / 8 = 17) : formatField M = 17 :=
  BitVec.eq_of_toNat_eq ((formatField_toNat M).trans hdf)

/-- A direct validation of a DF 17 message: nothing is corrected, and the address is inserted (R193). -/
theorem validateMsg_of_df17 {s : State} (hbits : s.msgBits = 112) (hdf0 : s.df0 = 17)
    (hvalid : validMsg s.msg 112 = true) :
    validateMsg s.ts s = ({ s with cache := cacheInsert s.cache (literalAddress s.msg) s.ts },
      { valid := true, path := 1 }) := by
  have hfix : isFixFormat s.df0 = true := isFixFormat_iff.2 (.inr (congrArg BitVec.toNat hdf0))
  have hlength : s.msgBits.toNat = 112 := congrArg BitVec.toNat hbits
  rw [validateMsg_of_correct hlength (correctMessage_of_valid hvalid), if_pos hfix]

/-- How a strong slice without errors of a valid DF 17 message is judged (R231, R232). -/
theorem Judged.of_df17 {sliced t : State} {strong : Prop} {o : CandidateOutcome} (h : Judged sliced strong o t)
    (hstrong : strong) (he : sliced.errors = 0) (hbits : sliced.msgBits = 112) (hdf0 : sliced.df0 = 17)
    (hdf : (msgByte sliced.msg 0).toNat / 8 = 17) (hvalid : validMsg sliced.msg 112 = true) :
    o = .accepted ∧ t.msgBits = 112 ∧ t.outq = sliced.outq ++ [frameRecord sliced.msg sliced.ts] ∧
      t.cache = cacheInsert sliced.cache (literalAddress sliced.msg) sliced.ts := by
  have hverdict := validateMsg_of_df17 hbits hdf0 hvalid
  have ho : o = .accepted := h.accepted_iff.2 ⟨hstrong, he, by rw [hverdict]⟩
  obtain ⟨r, hr, ht⟩ := h.accepted ho
  rw [hverdict] at ht
  subst ht
  exact ⟨ho, hbits, congrArg (fun r => sliced.outq ++ [r]) (hr.eq_of_df17 hbits hdf0 hdf), rfl⟩

/-- An accepted long frame is passed whole (R233). -/
theorem nextCandidate_of_long {s : State} (hg : scanGoesOn s = true) (ho : (candidate s).2 = .accepted)
    (hbits : (candidate s).1.msgBits = 112) :
    (nextCandidate s).j.toNat = s.j.toNat + 241 ∧ (nextCandidate s).mode = .scanningNormal := by
  have hlt := scanGoesOn_iff.1 hg
  have hlen : s.magLen.toNat < 2 ^ 24 := s.magLen.isLt
  obtain ⟨-, hj, -⟩ := candidate_spec s
  rcases transition_cases (candidate s).1.mode (candidate s).2 (candidate s).1.j.toNat (candidate s).1.msgBits.toNat with
    ⟨-, hno, -⟩ | ⟨-, hJ, hM⟩ | ⟨hno, -⟩
  · exact absurd ho hno
  · rw [hj, hbits] at hJ
    exact ⟨applyTransition_j_toNat (by rw [hj, hbits]; exact hJ) (by omega), hM⟩
  · exact absurd ho hno

/-- A turn in normal mode leaves MAG alone. -/
theorem nextCandidate_mag {s : State} (hm : s.mode = .scanningNormal) : (nextCandidate s).mag = s.mag := by
  obtain ⟨-, hmag, -⟩ := normalCandidate_spec s
  rw [nextCandidate, applyTransition_mag, candidate_normal hm, hmag]

section Scan
variable {s : State} {M : Msg} {H : BitVec 16} {x : Nat} (hmag : ∀ a, s.mag.read a = idealSample M H x a)
  (hH : 2550 ≤ H.toNat) (hdf : (msgByte M 0).toNat / 8 = 17) (hvalid : validMsg M 112 = true)
include hmag hH hdf hvalid

/-- The candidate at the frame's start is accepted (R228 to R232). -/
theorem candidate_of_ideal (hm : s.mode = .scanningNormal) (hj : s.j.toNat = x) :
    (candidate s).2 = .accepted ∧ (candidate s).1.msgBits = 112 ∧
      (candidate s).1.outq = s.outq ++ [frameRecord M s.ts] ∧
      (candidate s).1.cache = cacheInsert s.cache (literalAddress M) s.ts := by
  subst hj
  have hmsg := packBits_of_ideal hmag hH
  have hformat := formatField_of_df17 hdf
  have hlength : BitVec.ofNat 7 (lengthOf (17 : BitVec 5)) = 112 := by decide
  have hjudged := (candidate_judged_of_pass hm (preamble_pass_of_ideal hmag hH)).of_df17
  simp only [latchedSlice_msg, latchedSlice_errors, latchedSlice_df0, latchedSlice_msgBits, latchedSlice_ts,
    latchedSlice_cache, latchedSlice_outq, latchHigh_ts, latchHigh_cache, latchHigh_outq, hmsg, hformat,
    hlength] at hjudged
  exact hjudged ((quality_of_ideal hmag).symm ▸ hH) (errors_of_ideal hmag hH) trivial trivial hdf hvalid

/-- Where a scan of the frame stands: before the frame's end nothing is decoded; past it the frame is, once, and its address
is cached. -/
structure FollowsFrame (s : State) (M : Msg) (x : Nat) (t : State) : Prop where
  mode : t.mode = .scanningNormal
  mag : t.mag = s.mag
  frame : ScanFrame s t
  decoded : (t.j.toNat ≤ x ∧ t.outq = s.outq) ∨
    (x + 241 ≤ t.j.toNat ∧ (t.j.toNat = x + 241 ∨ t.j.toNat + 240 ≤ s.magLen.toNat) ∧
      t.outq = s.outq ++ [frameRecord M s.ts] ∧ lookupAt t.cache (literalAddress M).toNat = some s.ts)

/-- Every turn of the loop moves on: by one sample in the silence, and past the whole frame at its start. -/
theorem FollowsFrame.next {t : State} (h : FollowsFrame s M x t) (hg : scanGoesOn t = true) :
    FollowsFrame s M x (nextCandidate t) := by
  have hlt := scanGoesOn_iff.1 hg
  rw [h.frame.magLen] at hlt
  have hframe := h.frame.trans (nextCandidate_frame t)
  rw [← h.mag] at hmag
  by_cases hx : t.j.toNat = x
  · obtain ⟨ho, hbits, houtq, hcache⟩ := candidate_of_ideal hmag hH hdf hvalid h.mode hx
    obtain ⟨hj, hmode⟩ := nextCandidate_of_long hg ho hbits
    have hold : t.outq = s.outq := h.decoded.elim And.right fun hpast => absurd hpast.1 (by omega)
    rw [hold, h.frame.ts] at houtq
    rw [h.frame.ts] at hcache
    refine ⟨hmode, (nextCandidate_mag h.mode).trans h.mag, hframe, .inr ⟨by omega, .inl (by omega), houtq, ?_⟩⟩
    rw [nextCandidate, applyTransition_cache, hcache, lookupAt_cacheInsert, if_pos rfl]
  · have hsilent : t.j.toNat < x ∨ x + 240 ≤ t.j.toNat := by
      rcases h.decoded with ⟨hbefore, -⟩ | ⟨hpast, -⟩ <;> omega
    have heq := nextCandidate_of_not_shape h.mode (not_preambleShape_of_silent hmag hsilent)
    have hj : (nextCandidate t).j.toNat = t.j.toNat + 1 := by rw [heq]; exact toNat_ofNat_succ_of_scanGoesOn hg
    refine ⟨by rw [heq], (nextCandidate_mag h.mode).trans h.mag, hframe, ?_⟩
    rw [hj, heq]
    rcases h.decoded with ⟨hbefore, houtq⟩ | ⟨hpast, -, houtq, hcache⟩
    · exact .inl ⟨by omega, houtq⟩
    · exact .inr ⟨by omega, .inr (by omega), houtq, hcache⟩

/-- The scan of the frame ends past it. -/
theorem runScan_of_ideal (hlen : x + 240 < s.magLen.toNat) :
    (runScan s).1.outq = s.outq ++ [frameRecord M s.ts] ∧
      lookupAt (runScan s).1.cache (literalAddress M).toNat = some s.ts ∧
      (runScan s).1.j.toNat = max (x + 241) (s.magLen.toNat - 240) := by
  have hstart : FollowsFrame s M x (startScan s) :=
    ⟨rfl, rfl, by constructor <;> rfl, .inl ⟨Nat.zero_le _, rfl⟩⟩
  have hscan : FollowsFrame s M x (runScan s).1 := runScan_induction (fun _ h hg => h.next hmag hH hdf hvalid hg) hstart
  have hend := runScan_completes s
  rcases hscan.decoded with ⟨hbefore, -⟩ | ⟨hpast, hplace, houtq, hcache⟩
  · omega
  · exact ⟨houtq, hcache, by omega⟩

end Scan

/-- Settles O59. -/
theorem idealFrameIsDecodedOnce : Obligations.IdealFrameIsDecodedOnce := by
  intro s M H x hf hq hcap hlen hH hdf hvalid hmag
  obtain ⟨houtq, hcache, hj⟩ := runScan_of_ideal hmag hH hdf hvalid hlen
  rw [literalAddress] at hcache
  have hcount : (runScan s).2 = 1 := runScan_count houtq
  refine ⟨_, (exec_scan_of_room hf (room_of_empty hq hcap)).trans (scanAndRespond_eq hcount (by decide)), ?_⟩
  rw [hq] at houtq
  generalize (runScan s).1 = t at houtq hcache hj ⊢
  exact ⟨houtq, hcache, hj, rfl⟩

end Sys2Proof.Machine
end

section
/-! SUPPORT. Host access and system commands (O12, O19 to O26): what each command answers and leaves, its range check
apart from its effect, and the register map row by row. -/

namespace Sys2Proof.Machine

/-! ### Answers and command words -/

/-- An element zero-extended into the value field is answered as the number it is (R93, R94). -/
theorem respond_setWidth {w : Nat} (x : BitVec w) (s : State) :
    respond (x.setWidth 56) s = .next { s with rsp := okAnswer x.toNat } := by
  rw [respond_next, okAnswer, BitVec.ofNat_toNat]
  rfl

theorem respond_ofNat (v : Nat) (s : State) : respond (BitVec.ofNat 56 v) s = .next { s with rsp := okAnswer v } := rfl

theorem raise_eq (st : Status) (s : State) : raise st s = .next { s with rsp := errorAnswer st } := rfl

/-- The word of a command of format H16, field by field (R91, R92). -/
theorem commandWord_halfOperand (op : BitVec 8) (h : BitVec 16) : commandWord op (halfOperand h) = op ++ 0#40 ++ h := by
  have hassoc : op ++ 0#40 ++ h = op ++ (0#40 ++ h) := BitVec.append_assoc
  exact hassoc.symm

/-! ### NOP, SRESET (R250, R251) -/

theorem exec_nop (s : State) : exec .nop s = .next { s with rsp := okAnswer 0 } := respond_zero s

theorem exec_sreset (s : State) : exec .sreset s = .next { State.reset with inputs := s.inputs, rsp := okAnswer 0 } :=
  respond_zero (resetBlock s)

/-- Settles O12. -/
theorem nopAndSresetAnswerZero : Obligations.NopAndSresetAnswerZero := fun s =>
  ⟨exec_nop s, exec_sreset s, rfl, rfl⟩

/-! ### RDREG (R42, R43, R252) -/

theorem msgAvail_eq (s : State) : msgAvail s = decide (s.outq ≠ []) := by
  rw [msgAvail, outqCount]
  cases s.outq <;> rfl

theorem statusWord_eq (s : State) :
    statusWord s =
      BitVec.ofNat 56 (s.fatal.toNat + 2 * (decide (s.outq ≠ [])).toNat + 256 * s.fatalCause.toNat) := by
  have hfatal := Bool.toNat_le s.fatal
  have havail := Bool.toNat_le (decide (s.outq ≠ []))
  have hcause := s.fatalCause.isLt
  refine BitVec.eq_of_toNat_eq ?_
  simp only [statusWord, msgAvail_eq, toNat_append_add, BitVec.ofNat_eq_ofNat, BitVec.toNat_ofBool, BitVec.toNat_ofNat]
  omega

theorem setWidth_modeBit (m : ScanMode) :
    (modeBit m).setWidth 56 = BitVec.ofNat 56 (if m = .scanningNormal then 0 else 1) := by
  cases m <;> rfl

/-- A count shown in a register of `w` bits (log entry 14). -/
theorem setWidth_ofNat_count (w n : Nat) : (BitVec.ofNat w n).setWidth 56 = BitVec.ofNat 56 (n % 2 ^ w) := by
  rw [← BitVec.toNat_ofNat, BitVec.ofNat_toNat]

/-- The rows of R42 with the values that RDREG shows. -/
def registerMap (s : State) : List (Nat × Nat) :=
  [(0, s.fatal.toNat + 2 * (decide (s.outq ≠ [])).toNat + 256 * s.fatalCause.toNat),
   (1, s.ptr.toNat), (2, s.chunkLen.toNat), (3, s.magLen.toNat), (4, s.ts.toNat), (5, s.j.toNat),
   (6, if s.mode = .scanningNormal then 0 else 1), (7, s.errors.toNat), (8, s.df0.toNat),
   (9, s.msgBits.toNat), (10, s.high.toNat), (11, s.outq.length % 2 ^ 24), (12, s.cache.length % 2 ^ 25),
   (16, 262144), (17, 131072), (18, 4096), (19, 60000000), (20, 1000000), (21, 7)]

theorem registerWord_of_mem_registerMap (s : State) :
    ∀ row ∈ registerMap s, registerWord s row.1 = some (BitVec.ofNat 56 row.2) := by
  have shown {w : Nat} (x : BitVec w) : some (x.setWidth 56) = some (BitVec.ofNat 56 x.toNat) :=
    congrArg some (BitVec.ofNat_toNat 56 x).symm
  have hts : BitVec.ofNat 56 s.ts.toNat = s.ts := (BitVec.ofNat_toNat 56 s.ts).trans (BitVec.setWidth_eq s.ts)
  simp only [registerMap, List.forall_mem_cons]
  exact ⟨congrArg some (statusWord_eq s), shown s.ptr, shown s.chunkLen, shown s.magLen, congrArg some hts.symm,
    shown s.j, congrArg some (setWidth_modeBit s.mode), shown s.errors, shown s.df0, shown s.msgBits,
    shown s.high, congrArg some (setWidth_ofNat_count 24 s.outq.length),
    congrArg some (setWidth_ofNat_count 25 s.cache.length), rfl, rfl, rfl, rfl, rfl, rfl, List.forall_mem_nil _⟩

theorem exec_rdreg_of_some {s : State} {k : BitVec 8} {v : Nat}
    (h : registerWord s k.toNat = some (BitVec.ofNat 56 v)) :
    exec (.rdreg k) s = .next { s with rsp := okAnswer v } := by
  rw [← respond_ofNat]
  simp only [exec, execRdreg, h]

theorem exec_rdreg_of_none {s : State} {k : BitVec 8} (h : registerWord s k.toNat = none) :
    exec (.rdreg k) s = .next { s with rsp := errorAnswer .range } := by
  rw [← raise_eq]
  simp only [exec, execRdreg, h]

/-- Settles O19. -/
theorem rdregReadsTheRegisterMap : Obligations.RdregReadsTheRegisterMap := by
  intro s k
  refine ⟨fun v hv => exec_rdreg_of_some (registerWord_of_mem_registerMap s _ hv), fun hk => ?_, rfl, ?_, ?_⟩
  · exact exec_rdreg_of_none (Option.not_isSome_iff_eq_none.1 (mt (registerWord_isSome s k.toNat).1 hk))
  · rw [msgAvail_eq, decide_eq_true_iff]
  · exact commandWord_byteOperand 0x02 k

/-! ### The commands behind the FATAL gate (R294, R296), with FATAL 0 -/

section Running
variable {s : State} (hf : s.fatal = false)
include hf

theorem exec_setptr (a : BitVec 24) : exec (.setptr a) s = .next { s with ptr := a, rsp := okAnswer 0 } :=
  whenRunning_running hf _

theorem exec_setts (t : BitVec 56) : exec (.setts t) s = .next { s with ts := t, rsp := okAnswer 0 } := by
  have hrun : exec (.setts t) s = respond 0 { s with ts := Config.defaults.tick t } := whenRunning_running hf _
  rw [hrun, Config.defaults_tick]
  rfl

theorem exec_setlen (n : BitVec 24) :
    exec (.setlen n) s = if n.toNat > 262144 then raise .range s else respond 0 { s with chunkLen := n } :=
  whenRunning_running hf _

theorem exec_setmlen (n : BitVec 24) :
    exec (.setmlen n) s = if n.toNat > 131072 then raise .range s else respond 0 { s with magLen := n } :=
  whenRunning_running hf _

theorem exec_wrb (b : BitVec 8) :
    exec (.wrb b) s = if s.ptr.toNat ≥ 262144 then raise .range s
      else respond 0 (advancePtr { s with chunk := s.chunk.write s.ptr.toNat b }) :=
  whenRunning_running hf _

theorem exec_wrm (h : BitVec 16) :
    exec (.wrm h) s = if s.ptr.toNat ≥ 131072 then raise .range s
      else respond 0 (advancePtr { s with mag := s.mag.write s.ptr.toNat h }) :=
  whenRunning_running hf _

theorem exec_rdb :
    exec .rdb s = if s.ptr.toNat ≥ s.chunkLen.toNat then raise .range s
      else respond ((s.chunk.read s.ptr.toNat).setWidth 56) (advancePtr s) :=
  whenRunning_running hf _

theorem exec_rdmag :
    exec .rdmag s = if s.ptr.toNat ≥ s.magLen.toNat then raise .range s
      else respond ((s.mag.read s.ptr.toNat).setWidth 56) (advancePtr s) :=
  whenRunning_running hf _

theorem exec_ldm0 (m : BitVec 56) :
    exec (.ldm0 m) s = .next { s with msg := loadFirstSeven s.msg m, rsp := okAnswer 0 } :=
  whenRunning_running hf _

theorem exec_ldm1 (m : BitVec 56) :
    exec (.ldm1 m) s = .next { s with msg := loadLastSeven s.msg m, rsp := okAnswer 0 } :=
  whenRunning_running hf _

theorem exec_rdm0 : exec .rdm0 s = .next { s with rsp := some (responseWord .ok (sevenBytes s.msg 0)) } :=
  whenRunning_running hf _

theorem exec_rdm1 : exec .rdm1 s = .next { s with rsp := some (responseWord .ok (sevenBytes s.msg 7)) } :=
  whenRunning_running hf _

theorem exec_rdbit (k : BitVec 8) :
    exec (.rdbit k) s = if index112Ok k then respond (BitVec.ofNat 56 (symbolNat (symbolAt s.bits k.toNat))) s
      else raise .range s :=
  whenRunning_running hf _

end Running

/-! ### SETPTR, SETTS, SETLEN, SETMLEN (R253, R255, R257, R259) -/

/-- Settles O20. -/
theorem setCommandsStoreTheirOperand : Obligations.SetCommandsStoreTheirOperand := by
  intro s a t hf
  refine ⟨exec_setptr hf a, exec_setts hf t, fun hle => ?_, fun hgt => ?_, fun hle => ?_, fun hgt => ?_,
    commandWord_addrOperand 0x03 a, commandWord_addrOperand 0x05 a, commandWord_addrOperand 0x07 a, rfl⟩
  · exact (exec_setlen hf a).trans (if_neg (Nat.not_lt.2 hle))
  · exact (exec_setlen hf a).trans (if_pos hgt)
  · exact (exec_setmlen hf a).trans (if_neg (Nat.not_lt.2 hle))
  · exact (exec_setmlen hf a).trans (if_pos hgt)

/-! ### WRB, WRM, RDB, RDMAG (R254, R256, R258, R269) -/

/-- PTR does not wrap below a bound that 24 bits hold (R254, R256). -/
theorem toNat_add_one_of_lt {p : BitVec 24} {cap : Nat} (hcap : cap < 2 ^ 24) (h : p.toNat < cap) :
    (p + 1).toNat = p.toNat + 1 :=
  BitVec.toNat_add_of_lt (y := 1#24) ((Nat.succ_le_of_lt h).trans_lt hcap)

/-- Settles O21: the frame of the store is the memory's read after a write. -/
theorem writeCommandsStoreOneElement : Obligations.WriteCommandsStoreOneElement := by
  intro s b h hf
  refine ⟨fun hlt => ?_, fun hge => ?_, fun hlt => ?_, fun hge => ?_, commandWord_byteOperand 0x04 b,
    commandWord_halfOperand 0x06 h⟩
  · exact ⟨s.chunk.write s.ptr.toNat b, s.ptr + 1, (exec_wrb hf b).trans (if_neg (Nat.not_le.2 hlt)),
      toNat_add_one_of_lt (by decide) hlt, fun a => Memory.read_write s.ptr.toNat a b⟩
  · exact (exec_wrb hf b).trans (if_pos hge)
  · exact ⟨s.mag.write s.ptr.toNat h, s.ptr + 1, (exec_wrm hf h).trans (if_neg (Nat.not_le.2 hlt)),
      toNat_add_one_of_lt (by decide) hlt, fun a => Memory.read_write s.ptr.toNat a h⟩
  · exact (exec_wrm hf h).trans (if_pos hge)

/-- Settles O22. -/
theorem readCommandsAnswerOneElement : Obligations.ReadCommandsAnswerOneElement := by
  intro s hf
  refine ⟨fun hlt => ⟨s.ptr + 1, toNat_add_one_of_lt s.chunkLen.isLt hlt, ?_⟩, fun hge => ?_,
    fun hlt => ⟨s.ptr + 1, toNat_add_one_of_lt s.magLen.isLt hlt, ?_⟩, fun hge => ?_, rfl, rfl⟩
  · exact (exec_rdb hf).trans ((if_neg (Nat.not_le.2 hlt)).trans (respond_setWidth _ (advancePtr s)))
  · exact (exec_rdb hf).trans (if_pos hge)
  · exact (exec_rdmag hf).trans ((if_neg (Nat.not_le.2 hlt)).trans (respond_setWidth _ (advancePtr s)))
  · exact (exec_rdmag hf).trans (if_pos hge)

/-! ### The message and output registers (R66, R260 to R263, R266 to R268) -/

/-- Settles O23: byte by byte, as `msgByte_loadFirstSeven` and `msgByte_loadLastSeven` say. -/
theorem loadMessageMovesSevenBytes : Obligations.LoadMessageMovesSevenBytes := by
  intro s m hf
  refine ⟨⟨loadFirstSeven s.msg m, exec_ldm0 hf m, fun n hn => ?_, fun n hge hn => ?_⟩,
    ⟨loadLastSeven s.msg m, exec_ldm1 hf m, fun n hn => ?_, fun n hn => ?_⟩, rfl, rfl⟩
  · exact (msgByte_loadFirstSeven s.msg m n (by omega)).trans (if_pos hn)
  · exact (msgByte_loadFirstSeven s.msg m n hn).trans (if_neg (Nat.not_lt.2 hge))
  · rw [msgByte_loadLastSeven s.msg m _ (by omega), if_neg (by omega), Nat.add_sub_cancel_left]
    rfl
  · exact (msgByte_loadLastSeven s.msg m n (by omega)).trans (if_pos hn)

theorem exec_rdots (s : State) : exec .rdots s = .next { s with rsp := okAnswer s.out.ts.toNat } := by
  rw [← respond_setWidth, BitVec.setWidth_eq]
  rfl

/-- Settles O24: the four values are `sevenBytes` of the message and of the output message. -/
theorem readMessageAnswersSevenBytes : Obligations.ReadMessageAnswersSevenBytes := by
  intro s
  have hfirst (M : Msg) {n : Nat} (hn : n < 7) : (sevenBytes M 0).extractLsb' (48 - 8 * n) 8 = msgByte M n := by
    rw [sevenBytes_byte M 0 n hn, Nat.zero_add]
  refine ⟨sevenBytes s.msg 0, sevenBytes s.msg 7, sevenBytes s.out.bytes 0, sevenBytes s.out.bytes 7, exec_rdm0,
    exec_rdm1, respond_next _ s, respond_next _ s, exec_rdots s, rfl, rfl, rfl, rfl, rfl, fun n hn => ?_⟩
  exact ⟨hfirst s.msg hn, sevenBytes_byte s.msg 7 n hn, hfirst s.out.bytes hn, sevenBytes_byte s.out.bytes 7 n hn⟩

/-! ### RDBIT (R264) -/

theorem symbolNat_injective : Function.Injective symbolNat
  | .zero, .zero, _ | .one, .one, _ | .ambiguous, .ambiguous, _ => rfl

theorem getElem?_eq_some_symbolAt (bits : Vector Symbol 112) {k : Nat} (hk : k < 112) :
    bits[k]? = some (symbolAt bits k) := by
  rw [symbolAt, List.getD_eq_getElem?_getD, Vector.getElem?_toList, Vector.getElem?_eq_getElem hk, Option.getD_some]

/-- Settles O25: the number determines the symbol. -/
theorem rdbitReadsOneSymbol : Obligations.RdbitReadsOneSymbol := by
  intro s k hf
  refine ⟨fun hk => ?_, fun hk => ?_, commandWord_byteOperand 0x0E k⟩
  · have hsymbol (x : Symbol) : symbolNat (symbolAt s.bits k.toNat) = symbolNat x ↔ s.bits[k.toNat]? = some x := by
      rw [getElem?_eq_some_symbolAt s.bits (Nat.lt_succ_of_le hk), symbolNat_injective.eq_iff, Option.some_inj]
    exact ⟨_, (exec_rdbit hf k).trans (if_pos (index112Ok_iff.2 hk)), hsymbol .zero, hsymbol .one,
      hsymbol .ambiguous⟩
  · exact (exec_rdbit hf k).trans (if_neg (mt index112Ok_iff.1 (Nat.not_le.2 hk)))

/-! ### POP (R265) -/

theorem popValue_eq (r : OutRecord) :
    popValue r = BitVec.ofNat 56
      (r.addr.toNat + 2 ^ 24 * r.av.toNat + 2 ^ 25 * r.df.toNat + 2 ^ 30 * r.long.toNat) := by
  have haddr := r.addr.isLt
  have hav := Bool.toNat_le r.av
  have hdf := r.df.isLt
  have hlong := Bool.toNat_le r.long
  refine BitVec.eq_of_toNat_eq ?_
  simp only [popValue, bit, toNat_append_add, BitVec.ofNat_eq_ofNat, BitVec.toNat_ofBool, BitVec.toNat_ofNat]
  omega

theorem exec_pop_of_cons {s : State} {r : OutRecord} {rest : List OutRecord} (h : s.outq = r :: rest) :
    exec .pop s = respond (popValue r) (takeRecord r rest s) := by
  simp only [exec, execPop, h]

theorem exec_pop_of_nil {s : State} (h : s.outq = []) : exec .pop s = raise .empty s := by
  simp only [exec, execPop, h]

/-- Settles O26. -/
theorem popTakesTheOldestRecord : Obligations.PopTakesTheOldestRecord := by
  refine fun s => ⟨fun r rest hq => ?_, fun hq => exec_pop_of_nil hq, rfl⟩
  rw [exec_pop_of_cons hq, popValue_eq, respond_ofNat]
  rfl

end Sys2Proof.Machine
end

section
/-! SUPPORT. Errors (O14 to O17): which status a command answers with and what that status says of the state it leaves, said
once for all 37 commands, and what follows while FATAL is 1. -/

namespace Sys2Proof.Machine

/-! ### The answers of a command (R290 to R296) -/

/-- The commands that are executed while FATAL is 1 (R296). -/
def runsWhileFatal : Instr → Bool
  | .nop | .sreset | .rdreg _ | .pop | .rdo0 | .rdo1 | .rdots => true
  | _ => false

theorem runsWhileFatal_iff {i : Instr} :
    runsWhileFatal i = true ↔
      i = .nop ∨ i = .sreset ∨ (∃ k, i = .rdreg k) ∨ i = .pop ∨ i = .rdo0 ∨ i = .rdo1 ∨ i = .rdots := by
  cases i <;> simp [runsWhileFatal]

/-- The FATAL gate lets the command through (R294 (2), R296). -/
def Admitted (s : State) (i : Instr) : Prop := s.fatal = false ∨ runsWhileFatal i = true

/-- How the command `i` may be answered in the state `s`, by status: only OK leaves a state that is not known from the
status alone. -/
inductive Answers (s : State) (i : Instr) : Result → Prop
  | ok (hi : Admitted s i) (v : Word56) (u : State) : Answers s i (.next (withResponse .ok v u))
  | error (hi : Admitted s i) {st : Status} (hst : st ≠ .ok ∧ st ≠ .chunkLen ∧ st ≠ .fatal := by decide) :
      Answers s i (.next (withResponse st 0 s))
  | chunkLen (hf : s.fatal = false) (hbad : chunkLenBad s.chunkLen = true) (hi : i = .magvec ∨ i = .demod) :
      Answers s i (.next (withResponse .chunkLen 0 (setFatal s)))
  | refused (hf : s.fatal = true) (hi : runsWhileFatal i = false) : Answers s i (.next (withResponse .fatal 0 s))

section Answers
variable {s : State} {i : Instr}

/-- The FATAL gate either refuses or runs the body (R294). -/
theorem Answers.gate {body : Result} (h : s.fatal = false → Answers s i body)
    (hi : runsWhileFatal i = false := by rfl) : Answers s i (whenRunning s body) := by
  cases hf : s.fatal with
  | true => rw [whenRunning_fatal hf]; exact .refused hf hi
  | false => rw [whenRunning_running hf]; exact h hf

/-- A check is passed or not. -/
theorem Answers.check {c : Prop} [Decidable c] {a b : Result} (ha : c → Answers s i a) (hb : ¬ c → Answers s i b) :
    Answers s i (if c then a else b) := by
  split
  · exact ha ‹c›
  · exact hb ‹¬ c›

theorem Answers.rdreg (k : BitVec 8) : Answers s (.rdreg k) (execRdreg k s) := by
  unfold execRdreg
  split
  · exact .ok (.inr rfl) _ _
  · exact .error (.inr rfl)

theorem Answers.pop : Answers s .pop (execPop s) := by
  unfold execPop
  split
  · exact .error (.inr rfl)
  · exact .ok (.inr rfl) _ _

theorem Answers.fix1 (bits : BitVec 8) : Answers s (.fix1 bits) (execFix1 bits s) := by
  refine .gate fun hf => .check (fun _ => ?_) fun _ => .error (.inl hf)
  split <;> exact .ok (.inl hf) _ _

theorem Answers.fix2 (bits : BitVec 8) : Answers s (.fix2 bits) (execFix2 bits s) := by
  refine .gate fun hf => .check (fun _ => ?_) fun _ => .error (.inl hf)
  split <;> exact .ok (.inl hf) _ _

end Answers

/-- Every command is answered in one of these ways, by the form of its rule: with or without the FATAL gate, and with its
operand check before its effect or without one (R294). -/
theorem exec_answers (i : Instr) (s : State) : Answers s i (exec i s) := by
  cases i with
  | nop | sreset | rdo0 | rdo1 | rdots => exact .ok (.inr rfl) _ _
  | rdreg k => exact .rdreg k
  | pop => exact .pop
  | setptr | setts | ldm0 | ldm1 | rdm0 | rdm1 | validate | ccont | cins => exact .gate fun hf => .ok (.inl hf) _ _
  | wrb | setlen | wrm | setmlen | rdmag | rdb | scan =>
    exact .gate fun hf => .check (fun _ => .error (.inl hf)) fun _ => .ok (.inl hf) _ _
  | rdbit | lutrd | prechk | phdet | phcor | slice | crc | apchk | crctab =>
    exact .gate fun hf => .check (fun _ => .ok (.inl hf) _ _) fun _ => .error (.inl hf)
  | qual =>
    exact .gate fun hf => .check (fun _ => .error (.inl hf)) fun _ =>
      .check (fun _ => .ok (.inl hf) _ _) fun _ => .error (.inl hf)
  | fix1 bits => exact .fix1 bits
  | fix2 bits => exact .fix2 bits
  | magvec =>
    exact .gate fun hf => .check (fun hbad => .chunkLen hf hbad (.inl rfl)) fun _ => .ok (.inl hf) _ _
  | demod =>
    exact .gate fun hf => .check (fun hbad => .chunkLen hf hbad (.inr rfl)) fun _ =>
      .check (fun _ => .error (.inl hf)) fun _ => .ok (.inl hf) _ _

theorem exec_next (i : Instr) (s : State) : ∃ t, exec i s = .next t :=
  let ⟨_, _, _, h, _⟩ := exec_ends i s
  ⟨_, h⟩

theorem exec_answer {i : Instr} {s t : State} (h : exec i s = .next t) : Answers s i (.next t) :=
  h ▸ exec_answers i s

/-- A state's response determines the status it was given with. -/
theorem status_of_rsp {a b : Status} {v w : Word56} {u : State}
    (h : (withResponse a v u).rsp = some (responseWord b w)) : a = b :=
  (responseWord_inj.1 (Option.some.inj h)).1

/-! ### Command errors and the fatal error (R292, R293) -/

/-- Settles O14: every status but OK and E_CHUNKLEN is answered on the state as it was. -/
theorem commandErrorChangesNothing : Obligations.CommandErrorChangesNothing := by
  intro i s t st v h hrsp hok hchunk
  cases exec_answer h with
  | ok => exact absurd (status_of_rsp hrsp).symm hok
  | error => rw [← status_of_rsp hrsp]; rfl
  | chunkLen => exact absurd (status_of_rsp hrsp).symm hchunk
  | refused => rw [← status_of_rsp hrsp]; rfl

/-- E_CHUNKLEN is answered in one way only. -/
theorem exec_chunkLen {i : Instr} {s t : State} {v : Word56} (h : exec i s = .next t)
    (hrsp : t.rsp = some (responseWord .chunkLen v)) :
    (i = .magvec ∨ i = .demod) ∧ s.fatal = false ∧ chunkLenBad s.chunkLen = true ∧
      t = withResponse .chunkLen 0 (setFatal s) := by
  cases exec_answer h with
  | ok => nomatch status_of_rsp hrsp
  | error _ hst =>
    obtain ⟨-, hchunk, -⟩ := hst
    exact absurd (status_of_rsp hrsp) hchunk
  | chunkLen hf hbad hi => exact ⟨hi, hf, hbad, rfl⟩
  | refused => nomatch status_of_rsp hrsp

/-- Settles O15, by the one way E_CHUNKLEN is answered. -/
theorem fatalErrorSetsFatalOnly : Obligations.FatalErrorSetsFatalOnly := by
  refine ⟨fun i s t v h hrsp => ?_, fun i s hi hf => ⟨fun hbad => ?_, fun h => ?_⟩⟩
  · obtain ⟨hi, hf, -, ht⟩ := exec_chunkLen h hrsp
    exact ⟨hi, hf, ht⟩
  · have hbad := chunkLenBad_iff.2 hbad
    rcases hi with rfl | rfl
    · exact (exec_magvec hf).trans (if_pos hbad)
    · exact exec_demod_of_bad hf hbad
  · obtain ⟨-, -, hbad, -⟩ := exec_chunkLen (v := 0) h rfl
    exact chunkLenBad_iff.1 hbad

/-! ### While FATAL is 1 (R296, R297) -/

/-- Whatever the gate does not admit is refused (R294 (2)). -/
theorem exec_refused {i : Instr} {s : State} (hf : s.fatal = true) (hi : ¬ runsWhileFatal i = true) :
    exec i s = .next { s with rsp := errorAnswer .fatal } := by
  have hgate : ¬ Admitted s i := by simp [Admitted, hf, hi]
  obtain ⟨t, ht⟩ := exec_next i s
  rw [ht]
  cases exec_answer ht with
  | ok hi => exact absurd hi hgate
  | error hi => exact absurd hi hgate
  | chunkLen hf' => nomatch hf.symm.trans hf'
  | refused => rfl

/-- Settles O16: E_FATAL is answered at the gate alone, which admits the seven. -/
theorem fatalRefusesAllButSeven : Obligations.FatalRefusesAllButSeven := by
  intro i s hf
  rw [← runsWhileFatal_iff]
  refine ⟨fun hi => ?_, exec_refused hf⟩
  obtain ⟨t, ht⟩ := exec_next i s
  refine ⟨t, ht, fun hrsp => ?_⟩
  cases exec_answer ht with
  | ok => nomatch status_of_rsp hrsp
  | error _ hst =>
    obtain ⟨-, -, hfatal⟩ := hst
    exact hfatal (status_of_rsp hrsp)
  | chunkLen => nomatch status_of_rsp hrsp
  | refused _ hi' => nomatch hi.symm.trans hi'

/-- Of the seven commands only SRESET touches FATAL and FATAL_CAUSE. -/
theorem Effect.keeps_fatal {i : Instr} {s u : State} (e : Effect s i u) (hrun : runsWhileFatal i = true)
    (hi : i ≠ .sreset) : u.fatal = s.fatal ∧ u.fatalCause = s.fatalCause := by
  cases e with
  | unchanged => exact ⟨rfl, rfl⟩
  | pop => exact ⟨rfl, rfl⟩
  | sreset => exact absurd rfl hi
  | fatal hi => rcases hi with rfl | rfl <;> exact absurd hrun Bool.false_ne_true
  | _ => exact absurd hrun Bool.false_ne_true

theorem exec_keeps_fatal {i : Instr} {s t : State} (hf : s.fatal = true) (h : exec i s = .next t) (hi : i ≠ .sreset) :
    t.fatal = true ∧ t.fatalCause = s.fatalCause := by
  by_cases hrun : runsWhileFatal i = true
  · obtain ⟨st, v, u, rfl, e⟩ := exec_cases h
    obtain ⟨hfatal, hcause⟩ := e.keeps_fatal hrun hi
    exact ⟨hfatal.trans hf, hcause⟩
  · cases (exec_refused hf hrun).symm.trans h
    exact ⟨hf, rfl⟩

/-- Settles O17, by the four things a step can do (R90, R95, R320 to R322). -/
theorem onlyResetLeavesTheFatalState : Obligations.OnlyResetLeavesTheFatalState := by
  intro s t hf h
  rcases step_cases h with ⟨-, rfl⟩ | ⟨w, rest, e, -, -, rfl⟩ | ⟨w, rest, i, hs, hd, he⟩ | ⟨rest, hs, rfl⟩
  · exact .inl ⟨hf, rfl⟩
  · exact .inl ⟨hf, rfl⟩
  · by_cases hi : i = .sreset
    · subst hi
      cases (exec_sreset _).symm.trans he
      exact .inr ⟨rfl, rfl, .inr (.inr ⟨w, rest, hs, hd⟩)⟩
    · exact .inl (exec_keeps_fatal (s := takeInput rest s) hf he hi)
  · refine .inr ⟨rfl, rfl, ?_⟩
    rcases hs with hs | ⟨w, hs⟩
    · exact .inl ⟨rest, hs⟩
    · exact .inr (.inl ⟨w, rest, hs⟩)

end Sys2Proof.Machine
end

section
/-! SUPPORT. Completion and reset (O13, O11): every command ends with one response and takes nothing further from the host,
and the reset input ends in the reset state. -/

namespace Sys2Proof.Machine

/-! ### Every command completes (R333) -/

/-- No effect of a command takes an input of the host: a command is one word (R90), and a scan leaves the inputs alone as
part of its frame (R227). -/
theorem Effect.keeps_inputs {i : Instr} {s u : State} (e : Effect s i u) : u.inputs = s.inputs := by
  cases e with
  | scan => exact (runScan_frame s).1.inputs
  | demod => exact (runScan_frame (buildVector s)).1.inputs.trans (buildVector_inputs s)
  | prechk j => exact latchHigh_inputs _ s
  | slice j => exact (latchLength_inputs _ _).trans (writeSlice_inputs _ s)
  | _ => rfl

theorem exec_keeps_inputs {i : Instr} {s t : State} (h : exec i s = .next t) : t.inputs = s.inputs := by
  obtain ⟨st, v, u, rfl, e⟩ := exec_cases h
  exact (withResponse_inputs st v u).trans e.keeps_inputs

/-- Only OK carries a value; every error's value is 0 (R290, R292). -/
theorem Answers.rsp {i : Instr} {s t : State} (h : Answers s i (.next t)) :
    ∃ st v, t.rsp = some (responseWord st v) ∧ (st ≠ .ok → v = 0) := by
  cases h with
  | ok _ v => exact ⟨.ok, v, rfl, fun hst => absurd rfl hst⟩
  | error => exact ⟨_, 0, rfl, fun _ => rfl⟩
  | chunkLen => exact ⟨.chunkLen, 0, rfl, fun _ => rfl⟩
  | refused => exact ⟨.fatal, 0, rfl, fun _ => rfl⟩

/-- Settles O13: every command completes, and the way it is answered names the status. -/
theorem everyCommandIsAnswered : Obligations.EveryCommandIsAnswered := by
  intro i s
  obtain ⟨t, ht⟩ := exec_next i s
  obtain ⟨st, v, hrsp, hv⟩ := (exec_answer ht).rsp
  exact ⟨t, st, v, ht, hrsp, hv, exec_keeps_inputs ht⟩

/-! ### The reset input (R320, R321) -/

theorem step_of_reset {s : State} {rest : List HostInput}
    (hs : s.inputs = .reset :: rest ∨ ∃ w, s.inputs = .resetDuring w :: rest) :
    step s = .next (resetBlock (takeInput rest s)) := by
  rcases hs with hs | ⟨w, hs⟩ <;> simp only [step, stepBy, hs, resetInput]

/-- Settles O11: a reset between commands and one during a command are the same step, and `State.reset` holds no
response. -/
theorem resetInputResetsTheBlock : Obligations.ResetInputResetsTheBlock :=
  fun _ w _ => ⟨fun hs => step_of_reset (.inl hs), fun hs => step_of_reset (.inr ⟨w, hs⟩)⟩

end Sys2Proof.Machine
end
